-- ==== Sys2Proof/Word.lean ====
section
/-! DEFINITION. Byte and word types of the HK48 (spec 11, R191), and their plainest names. -/
namespace Sys2Proof

/-- A byte of a frame, a record, a page or a digest. -/
abbrev Byte := BitVec 8

/-- A string of bytes, first byte first. -/
abbrev Bytes := List Byte

/-- A 4-byte integer: a generation, an uptime, a setting value on the link. -/
abbrev Word := BitVec 32

/-- A set of the six domains: PLATFORM in bit 0 up to SERVICE in bit 5 (R191). -/
abbrev DomSet := BitVec 6

end Sys2Proof
end

