-- ==== Sys2Proof/Syntax.lean ====
section
/-! DEFINITION. The commands of the HK48: one constructor per row of spec/opcode_table.json. -/
namespace Sys2Proof

/-- The two channels: S at 0x36 and A at 0x37 (00 section 2). -/
inductive Chan where
  | S
  | A
deriving DecidableEq, Repr

/-- What a programming step or an erase had reached when power or RST_N cut it (R35, R53, R78). Every value is allowed: each
cell of the step in progress is left either as it was or as the step wanted it, and an operand says which (log 3). -/
structure Cut where
  /-- OTP cells: a 1 keeps the cell of that bit as it was (R35). -/
  cells : Byte
  /-- Store page in a program or in an erase: a 1 keeps the bit erased (a program), or makes it erased (an erase). -/
  page : Bytes
  /-- Store page in a void: a 1 keeps the generation bit as it was. -/
  gen : Word
  /-- Erase: how many pages, from page 0, were erased in full. -/
  pages : Nat
deriving DecidableEq, Repr

/-- The commands. A request row carries its channel where either channel may make the request (table 11.2.2); its arguments
stand in the channel's request buffer (log 1). The other operands are what the outside of the part gives (log 3). -/
inductive Instr where
  | powerOn (cut : Cut)
  | pinReset (cut : Cut)
  | pinResetRelease
  | startUpLoad
  | addressByte (b : Byte)
  | writeDataByte (b : Byte)
  | frameClose
  | readFrame (n : Nat) (ends : Bool)
  | stuckLineTimerExpiry
  | identify (ch : Chan)
  | readEvents (ch : Chan)
  | getSetting (ch : Chan)
  | setSetting
  | restrictGrants
  | writeIdentity
  | generateDeviceKeys
  | installRoot
  | seal
  | readStoreHealth (ch : Chan)
  | setGuard
  | freezeGuard
  | writeSlot (ch : Chan)
  | generateKey (ch : Chan)
  | deleteSlot (ch : Chan)
  | readSlotInfo (ch : Chan)
  | verifyOwner
  | endOwner
  | setVerifier
  | readThrottle (ch : Chan)
  | ownerReset (rcv : Bool)
  | openKey (ch : Chan)
  | closeKey (ch : Chan)
  | pinKey (ch : Chan)
  | unpinKey (ch : Chan)
  | listContexts (ch : Chan)
  | sign (ch : Chan)
  | derive (ch : Chan)
  | releaseSecret (ch : Chan)
  | extend (ch : Chan)
  | readLanes (ch : Chan)
  | readLog (ch : Chan)
  | quote (ch : Chan)
  | readBootState (ch : Chan)
  | releaseRecovery
  | restartPlatform (ch : Chan)
  | selectBank
  | admitBank
  | admissionStatus (ch : Chan)
  | abortAdmission
  | confirmBoot
  | hashChunkEnd
  | finishDigestEnd
  | extendJobEnd
  | verifySignatureEnd
  | signJobEnd
  | deriveJobEnd
  | stretchEnd
  /-- `healthy`: the health test passed over the whole draw; `draws`: the 32-byte values drawn, in order (R29). -/
  | keygenEnd (healthy : Bool) (draws : List Bytes)
  /-- `healthy`: the health test passed; `drawn`: the bytes drawn (R29). -/
  | randomEnd (healthy : Bool) (drawn : Bytes)
  /-- `bad`: what the page reads when it is not what was intended; none when the readback is as intended (R53). -/
  | pageProgramDone (bad : Option Bytes)
  /-- `bad`: a 1 keeps the generation bit as it was; none when every bit cleared (R53). -/
  | pageVoidDone (bad : Option Word)
  | copyProgramDone (bad : Option Bytes)
  /-- `left`: the bytes of the block, by offset, that do not read 0xFF after the erase; empty after a good erase (R53). -/
  | blockEraseDone (left : List (Nat × Byte))
  | recoveryEraseDone (left : List (Nat × Byte))
  /-- `stuck`: a 1 marks a cell that did not clear (R35). -/
  | otaByteProgrammed (stuck : Byte)
  /-- `ok`: the cell cleared (R35, R42). -/
  | counterBitProgrammed (ok : Bool)
  | lockBitProgrammed (ok : Bool)
  | retireBitProgrammed (ok : Bool)
  | uptimeTick
  | ownerGrantIdleExpiry
  /-- The three bytes of the identification command (R161). -/
  | flashIdReadDone (b0 b1 b2 : Byte)
  /-- The bytes the flash returned from the bank's base address onward (R163). -/
  | manifestReadDone (bytes : Bytes)
  /-- The bytes the flash returned from the descriptor's address onward (R165). -/
  | chunkReadDone (bytes : Bytes)
  | bootPhaseBegin
  | bootLanesClose
  | release
  | powerLoss (cut : Cut)
deriving DecidableEq, Repr

end Sys2Proof
end

