-- ==== Sys2Proof/Decode.lean ====
section
/-! DEFINITION. The command a word spells by the bits of spec/opcode_table.json. -/
namespace Sys2Proof

/-- No row of the table gives bits ("fields" is empty in every row and no row has "fixed"), so no word spells a command. The
request codes of the link frames are another matter: they are bytes of a frame (table 11.2.2) and `FRAME_CLOSE` reads them. -/
def decodeTableWord (_nbits _w : Nat) : Option Instr := none

end Sys2Proof
end

