-- ==== Sys2Proof/Config.lean ====
section
/-! DEFINITION. What an implementation of the HK48 fixes and the manual does not give (free values). -/
namespace Sys2Proof

/-- The per-signature value that SIGN derives from the private scalar and the digest "by a fixed construction, which this
manual does not give" (R26), at each of its attempts, before it is brought into 1..n-1. A free value: nothing evaluates it (log 9). -/
opaque Config.signK (scalar digest : Bytes) (attempt : Nat) : Nat

end Sys2Proof
end

