-- ==== Sys2Proof/Machine/Bytes.lean ====
section
/-! DEFINITION. Byte order, padding, bit-wise operations on byte strings and the CRC-16 of frames and records (R2, R191). -/
namespace Sys2Proof.Machine

/-- The `len` bytes of `v`, most significant byte first (R191). -/
def be : (len : Nat) → (v : Nat) → Bytes
  | 0, _ => []
  | len + 1, v => BitVec.ofNat 8 (v / 256 ^ len) :: be len v

/-- The integer that a byte string spells, most significant byte first (R191). -/
def beNat (bs : Bytes) : Nat := bs.foldl (fun acc b => acc * 256 + b.toNat) 0

/-- A byte string brought to exactly `n` bytes: cut after `n`, or filled up with `fill`. -/
def fit (n : Nat) (fill : Byte) (bs : Bytes) : Bytes := bs.take n ++ List.replicate (n - bs.length) fill

/-- The bytes at offsets off .. off+n-1, filled with zeros past the end. -/
def slice (bs : Bytes) (off n : Nat) : Bytes := fit n 0#8 (bs.drop off)

/-- The byte at an offset, 0 past the end. -/
def byteAt (bs : Bytes) (off : Nat) : Byte := bs.getD off 0#8

/-- ASCII bytes of a fixed constant (section 5.3). -/
def ascii (s : String) : Bytes := s.toList.map fun c => BitVec.ofNat 8 c.toNat

/-- Byte-wise OR; the longer string's rest is dropped. -/
def orBytes (a b : Bytes) : Bytes := List.zipWith (· ||| ·) a b

/-- The bitwise complement of a byte string. -/
def complBytes (a : Bytes) : Bytes := a.map fun b => b ^^^ 0xFF#8

/-- Set one element of a list. -/
def setAt {α : Type} (l : List α) (i : Nat) (x : α) : List α := l.set i x

/-- One bit step of the CRC with polynomial 0x1021 (R2). -/
def crcBit (c : BitVec 16) : BitVec 16 := if c.msb then (c <<< 1) ^^^ 0x1021#16 else c <<< 1

/-- One byte entered most significant bit first (R2). -/
def crcByte (c : BitVec 16) (b : Byte) : BitVec 16 :=
  crcBit (crcBit (crcBit (crcBit (crcBit (crcBit (crcBit (crcBit (c ^^^ (b.setWidth 16 <<< 8)))))))))

/-- CRC-16 from 0xFFFF, no reversal, no final inversion (R2). -/
def crc16 (bs : Bytes) : BitVec 16 := bs.foldl crcByte 0xFFFF#16

/-- The two check bytes, most significant first (R2). -/
def crcBytes (bs : Bytes) : Bytes := be 2 (crc16 bs).toNat

end Sys2Proof.Machine
end

