-- ==== Sys2Proof/Machine/State.lean ====
section
/-! DEFINITION. The state of the HK48 as plain data (00 section 3), and the state right after power-on. -/
namespace Sys2Proof.Machine

/-- No command of the HK48 stops the part with a fault: every error is a reply status, an event, a failure reason or a fault
record, and all of these are state. So there is no constructor. -/
inductive Fault where
deriving DecidableEq, Repr

/-- Refusals. -/
inductive Refusal where
  /-- Raised by `exec` alone, for a command that has no meaning yet (safe). -/
  | notModelled (mnemonic : String)
deriving DecidableEq, Repr

/-! ### Names (table 11.5, 11.2.3) -/

/-- Whether the part has power, is held in reset, runs the start-up load, or runs (R14, R50, R52). -/
inductive Power where
  | off
  | inReset
  | loading
  | running
deriving DecidableEq, Repr

/-- The three claimants of the engine (R30). -/
inductive Claimant where
  | S
  | A
  | F
deriving DecidableEq, Repr

/-- Channel states (section 1.3). -/
inductive ChState where
  | closed
  | idle
  | receiving
  | working
  | replyReady
deriving DecidableEq, Repr

/-- Reply statuses (table 11.2.3). -/
inductive Status where
  | ok | accepted | noReply | frameCheck | frameLength | frameShort | unknownRequest
  | badArgument | notPermitted | wrongState | busy | noRoom
  | noSlot | slotKind | guarded | generationMismatch | storeFull | storeFault | otpFault | rollback
  | throttled | lockedOut | mismatch | policy | staleHandle | logFull | rngFault
deriving DecidableEq, Repr

/-- Events (R17). -/
inductive Event where
  | bootFailed | bootDone | storeFault | ownerGrantEnded | admissionDone
deriving DecidableEq, Repr

/-- Slot kinds (R58). -/
inductive Kind where
  | empty | verifier | secret | signingKey | linkKey | trustAnchor | settings | bootRecord
deriving DecidableEq, Repr

/-- Slot domains (R81). -/
inductive Domain where
  | platform | update | owner | network | client | service
deriving DecidableEq, Repr

/-- Lifecycles (R44). -/
inductive Lifecycle where
  | blank | personalized | sealed | failed
deriving DecidableEq, Repr

/-- Boot states (section 9.2). -/
inductive BootState where
  | waiting | verifying | released | bootFailed
deriving DecidableEq, Repr

/-- Boot modes (R154). -/
inductive BootMode where
  | none | normal | recovery
deriving DecidableEq, Repr

/-- The two banks of the boot flash. -/
inductive Bank where
  | b0
  | b1
deriving DecidableEq, Repr

/-- Bank states (R152). -/
inductive BankState where
  | unknown | trial | admitted | rejected
deriving DecidableEq, Repr

/-- Segment kinds (R163). -/
inductive SegKind where
  | loader | system | radio | data
deriving DecidableEq, Repr

/-- Makers of log entries (R137). -/
inductive Source where
  | part | supervisor | application | recovery
deriving DecidableEq, Repr

/-- Background store faults (R73). -/
inductive FaultKind where
  | eraseFailed | retireMarkFailed | degraded
deriving DecidableEq, Repr

/-- Checker states in boot mode (section 9.4). -/
inductive CheckState where
  | idle | reading | checking | hashing | recording
deriving DecidableEq, Repr

/-- Admission states (R174). -/
inductive AdmState where
  | idle | claiming | reading | checking | hashing | committing | passed | failed
deriving DecidableEq, Repr

/-- Why a bank check ends without a pass (R158, R174). -/
inductive CheckReason where
  | flashFault | badManifest | signer | signature | rollback | digest
deriving DecidableEq, Repr

/-- Reasons of a failed admission (R174). -/
inductive AdmReason where
  | check (r : CheckReason)
  | aborted
  | storeFault
deriving DecidableEq, Repr

/-- Failure reason of a bank in a boot phase (R172). -/
inductive BootReason where
  | none
  | trials
  | storeFault
  | check (r : CheckReason)
deriving DecidableEq, Repr

/-- The four thermometer counters (R41). -/
inductive Counter where
  | loader | system | radio | ownerEpoch
deriving DecidableEq, Repr

/-! ### Shared records -/

/-- A held reply: status and body (R2). -/
structure Reply where
  status : Status
  body   : Bytes
deriving DecidableEq, Repr

/-- A slot record without slot id, generation and check (R57). `domain` is none for code 0 and for an undefined code. -/
structure Rec where
  kind       : Kind
  domain     : Option Domain
  flags      : Byte
  needsOwner : Bool
  mask       : Byte
  composite  : Bytes
  label      : Bytes
  payload    : Bytes
deriving DecidableEq, Repr

/-- Throttle parameters of a verifier (R100). -/
structure Params where
  F : Nat
  B : Nat
  C : Nat
  L : Nat
  P : Nat
deriving DecidableEq, Repr

/-- The three image epochs (R152). -/
structure Epochs where
  loader : Nat
  system : Nat
  radio  : Nat
deriving DecidableEq, Repr

/-- What the boot record holds of one bank (R152). -/
structure BankRec where
  state  : BankState
  trials : Nat
  epochs : Epochs
  digest : Bytes
deriving DecidableEq, Repr

/-- The boot record (R152). -/
structure BootRec where
  preferred : Bank
  bank0     : BankRec
  bank1     : BankRec
deriving DecidableEq, Repr

/-- A running digest state: the function's intermediate value, the bytes not yet absorbed, the count fed (section 2.1.1). -/
structure DigestState where
  h     : List Word
  tail  : Bytes
  count : Nat
deriving DecidableEq, Repr

/-- A context handle (R120). -/
structure Handle where
  entry : Nat
  epoch : Byte
deriving DecidableEq, Repr

/-! ### Link and channels (chapter 1) -/

/-- The line state of the link interface (R1, R3, R10, R11). -/
inductive Line where
  /-- waits for a START condition -/
  | waitStart
  /-- ignores the bus until the next START condition -/
  | ignoring
  /-- a write to a channel, with the count of bytes of the frame received -/
  | write (ch : Chan) (count : Nat)
  /-- a read of the held reply, with the count of bytes clocked out -/
  | readReply (ch : Chan) (pos : Nat)
  /-- a read of the NO_REPLY frame, with the count of bytes clocked out -/
  | readNoReply (ch : Chan) (pos : Nat)
  /-- a read for which the part has released the data line -/
  | readReleased
deriving DecidableEq, Repr

/-- The link interface. `ack` and `dataOut` are its last outputs on the data line. -/
structure Link where
  line    : Line
  ack     : Option Bool
  dataOut : Bytes
deriving DecidableEq, Repr

/-- A hold-off entry (R101). -/
structure HoldEntry where
  slot      : Nat
  count     : Nat
  holdUntil : Nat
  lastEvent : Nat
deriving DecidableEq, Repr

/-- What an owning block holds for the request a channel has in WORKING, by the stage the request has reached (R9). -/
inductive Work where
  | none
  /-- handed over by FRAME_CLOSE and not yet taken by its block -/
  | handed (code : Byte) (body : Bytes)
  | setSetting
  | writeIdentity
  | keysSeed
  | keysProgram
  | keysAttest (status : Status)
  | rootDigest
  | rootProgram (entry : Nat) (digest : Bytes)
  | seal
  | writeSlot
  | deleteSlot
  | generateKeygen (slot : Nat) (r : Rec) (expected : Option Word)
  | generateStore (pub : Option Bytes)
  /-- `before`: the slot's hold-off entry before the request, which a platform restart puts back (R109) -/
  | verifyPrecharge (slot : Nat) (candidate : Bytes) (before : Option HoldEntry)
  | verifyStretch (slot : Nat) (r : Rec)
  | verifyMatch (count : Nat)
  | verifierRandom (slot : Nat) (password : Bytes) (params : Params) (expected : Option Word)
  | verifierStretch (slot : Nat) (salt : Bytes) (params : Params) (expected : Option Word)
  | verifierStore (params : Params)
  | resetEpoch
  | resetWalk (slot : Nat) (done left : Nat) (epochOut : Status)
  | openKey
  | use
  | extend
  | quoteDigest
  | quoteSign (stmt : Bytes)
  | recoveryMarker
  | recoveryRelease
  | selectBank
  | abortWait (prev : AdmState)
  | confirm
deriving DecidableEq, Repr

/-- A channel controller (section 1.3). -/
structure Channel where
  state     : ChState
  rxLen     : Bytes
  rx        : Bytes
  condemned : Bool
  reply     : Option Reply
  work      : Work
  ev1       : Bool
  ev2       : Bool
  ev3       : Bool
  grants    : DomSet
deriving DecidableEq, Repr

/-- The settings in RAM (section 1.8). -/
structure Settings where
  bank0Base : Nat
  bank1Base : Nat
  bankSize  : Nat
  ownerIdle : Nat
  enablesA  : Nat
  enablesS  : Nat
  grantsA   : Nat
deriving DecidableEq, Repr

/-! ### Crypto engine (chapter 2) -/

/-- What a KEYGEN job makes (R29). -/
inductive GenKind where
  | signingKey
  | linkKey
  | deviceSeed
  | attestation (seed : Bytes)
deriving DecidableEq, Repr

/-- A claim for an engine job, with the inputs that its request carries (R30). -/
inductive Claim where
  | hashChunk
  | digestManifest
  | digestAnchor
  | digestSegment
  | verifySig
  | extendPart (lane : Nat) (digest label : Bytes)
  | digestRoot (key : Bytes)
  | digestComposite (slot : Nat) (gen : Word) (r : Rec)
  | digestQuote (nonce : Bytes) (mask : Byte)
  | signQuote (digest : Bytes)
  | signCtx (h : Handle) (digest : Bytes)
  | deriveCtx (h : Handle) (info : Bytes)
  | releaseCtx (h : Handle)
  | extendReq (lane : Nat) (digest label : Bytes)
  | extendRecovery
  | stretch (salt candidate : Bytes)
  | keygen (kind : GenKind)
  | random (n : Nat)
deriving DecidableEq, Repr

/-- A pending claim; `dropped` when the work that filed it has ended and its job's result is to be dropped (R181). -/
structure Pending where
  claim   : Claim
  dropped : Bool
deriving DecidableEq, Repr

/-- What a FINISH_DIGEST job's digest is for. -/
inductive DigestFor where
  | manifest
  | anchor
  | segment
  | root
  /-- a composite for OPEN KEY; `cleared` when the lanes were cleared since the grant (R122) -/
  | composite (slot : Nat) (gen : Word) (r : Rec) (cleared : Bool)
  | quote (stmt : Bytes)
deriving DecidableEq, Repr

/-- A job in progress with the inputs it took at its grant (R32). -/
inductive Job where
  | hashChunk (st : DigestState) (bytes : Bytes)
  | finishDigest (purpose : DigestFor) (st : DigestState) (final : Bytes)
  | extend (lane : Nat) (value digest label : Bytes) (source : Source)
  | verifySig (key digest sig : Bytes)
  | sign (scalar digest : Bytes)
  | derive (key info : Bytes)
  | stretch (salt candidate : Bytes)
  | keygen (kind : GenKind)
  | random (n : Nat)
deriving DecidableEq, Repr

/-- The engine's running job; `dropped` when its result is to be discarded (R34, R181). -/
structure Running where
  who     : Claimant
  job     : Job
  dropped : Bool
deriving DecidableEq, Repr

/-- The attestation key pair (R27). -/
structure AttestKey where
  scalar : Bytes
  pub    : Bytes
deriving DecidableEq, Repr

/-- Crypto engine and arbiter (section 2.2). -/
structure Engine where
  running : Option Running
  claimS  : Option Pending
  claimA  : Option Pending
  claimF  : Option Pending
  order   : List Claimant
  attest  : Option AttestKey
deriving DecidableEq, Repr

/-! ### One-time area (chapter 3) -/

/-- The cells of one root entry (R40). -/
structure RootCells where
  digest : Bytes
  marker : Byte
deriving DecidableEq, Repr

/-- The one-time cells, as they read: 1 is unprogrammed, except that a lock bit is 1 when set (section 3.1). Only the fields
that the manual names are held (log 7). -/
structure Cells where
  page0      : Bytes
  seed       : Bytes
  seedCompl  : Bytes
  keysMarker : Byte
  roots      : List RootCells
  loader     : BitVec 255
  system     : BitVec 255
  radio      : BitVec 255
  ownerEpoch : BitVec 64
  retired    : BitVec 40
  locks      : BitVec 5
deriving DecidableEq, Repr

/-- The RAM copy of one root entry (R40). -/
structure RootRam where
  present : Bool
  digest  : Bytes
deriving DecidableEq, Repr

/-- Who filed a counter advance (R37). -/
inductive AdvanceFor where
  | factory | confirm | ownerReset
deriving DecidableEq, Repr

/-- OTA operations (R37). -/
inductive OtaOp where
  | identity (copy : Bytes)
  | keys (seed : Bytes)
  | root (entry : Nat) (digest : Bytes)
  | seal
  | advance (ctr : Counter) (target : Nat) (filer : AdvanceFor)
  | retire (block : Nat)
deriving DecidableEq, Repr

/-- The operation in progress, at its byte or lock position. -/
structure OtaRun where
  op  : OtaOp
  pos : Nat
deriving DecidableEq, Repr

/-- The OTA controller. -/
structure Ota where
  cells     : Cells
  identity  : Option Bytes
  keysExist : Bool
  roots     : List RootRam
  loader    : Nat
  system    : Nat
  radio     : Nat
  epoch     : Nat
  lifecycle : Lifecycle
  current   : Option OtaRun
  queue     : List OtaOp
deriving DecidableEq, Repr

/-! ### Secure store (chapter 4) -/

/-- Block states (R56). -/
inductive BlockState where
  | free | spare | openBlock | filled | retired
deriving DecidableEq, Repr

/-- A slot map entry (R59); `page` is 16 times the block number plus the page number. -/
structure SlotEntry where
  slot : Nat
  page : Nat
  gen  : Word
deriving DecidableEq, Repr

/-- Writers of a job (R62). -/
inductive Writer where
  | channelRequest | ownerUnit | ownerReset | settingsWriter | bootController | imageChecker
deriving DecidableEq, Repr

/-- Who waits for a job's outcome. -/
inductive Filer where
  | settings (num val : Nat)
  | writeSlot
  | generateKey
  | deleteSlot
  | setVerifier
  | precharge
  | matchWrite
  | ownerReset
  | boot
deriving DecidableEq, Repr

/-- A write job (R62). `orphan` when its request no longer exists (R79). -/
structure WriteJob where
  slot     : Nat
  record   : Rec
  expected : Option Word
  writer   : Writer
  chan     : Option Chan
  filer    : Filer
  orphan   : Bool
deriving DecidableEq, Repr

/-- A filer that waits for a place in the write FIFO (R62). The boot controller builds its job when it files it (R153). -/
inductive Waiter where
  | job (j : WriteJob)
  | boot
deriving DecidableEq, Repr

/-- The taken job and its failed attempts (R63, R66). -/
structure Taken where
  job      : WriteJob
  attempts : Nat
deriving DecidableEq, Repr

/-- The array operation in progress (R53). -/
inductive ArrayOp where
  | program (page : Nat) (bytes : Bytes)
  | void (page : Nat)
  | copy (src dst : Nat) (bytes : Bytes)
  | copyVoid (page : Nat)
  | erase (block : Nat)
  | recoveryErase (block : Nat)
deriving DecidableEq, Repr

/-- A compaction in progress (R69). -/
structure Compaction where
  victim : Nat
  target : Nat
deriving DecidableEq, Repr

/-- The store fault record when present (R73). -/
structure FaultRec where
  kind   : FaultKind
  block  : Option Nat
  uptime : Nat
  more   : Bool
deriving DecidableEq, Repr

/-- The store controller. -/
structure Store where
  mem       : List Host.Cell
  used      : List Nat
  blocks    : List BlockState
  map       : List SlotEntry
  taken     : Option Taken
  op        : Option ArrayOp
  comp      : Option Compaction
  fifo      : List WriteJob
  waiters   : List Waiter
  degraded  : Bool
  fault     : Option FaultRec
  markOut   : Bool
  marksHeld : List Nat
deriving DecidableEq, Repr

/-- The slot guard (R75). -/
structure Guard where
  lower  : Nat
  upper  : Nat
  invert : Bool
  frozen : Bool
deriving DecidableEq, Repr

/-! ### Owner verification unit (chapter 6) -/

/-- The owner grant while active (R110). -/
structure Grant where
  slot    : Nat
  lastUse : Nat
deriving DecidableEq, Repr

/-- The owner verification unit. `grant` is none when the grant is not active. -/
structure Owner where
  uptime  : Nat
  table   : List HoldEntry
  grant   : Option Grant
  idleDue : Bool
deriving DecidableEq, Repr

/-! ### Context table (chapter 7) -/

/-- The fields of a LOADED entry (R119). -/
structure Ctx where
  slot       : Nat
  gen        : Word
  owner      : Chan
  kind       : Kind
  domain     : Option Domain
  flags      : Byte
  needsOwner : Bool
  mask       : Byte
  pinned     : Bool
  stamp      : Nat
  material   : Bytes
deriving DecidableEq, Repr

/-- An entry: its epoch, and its fields when LOADED (R119). -/
structure CtxEntry where
  epoch : Byte
  ctx   : Option Ctx
deriving DecidableEq, Repr

/-- The context table. -/
structure CtxTable where
  entries : List CtxEntry
  counter : Nat
deriving DecidableEq, Repr

/-! ### Measurement block (chapter 8) -/

/-- A log entry; its index is its position (R137). -/
structure LogEntry where
  lane   : Nat
  source : Source
  label  : Bytes
  digest : Bytes
deriving DecidableEq, Repr

/-- The measurement block. -/
structure Meas where
  lanes    : List Bytes
  log      : List LogEntry
  bootOpen : Bool
deriving DecidableEq, Repr

/-! ### Boot controller (chapters 9 and 10) -/

/-- A change of the boot record (R153). -/
inductive Change where
  /-- exhausted trial (R156) -/
  | trialsOut (b : Bank)
  /-- trial increment (R157) -/
  | trialInc (b : Bank)
  /-- rejection after a failed check (R158) -/
  | reject (b : Bank)
  /-- the record of a pass (R160) -/
  | passed (b : Bank) (factory : Bool) (e : Epochs) (digest : Bytes)
  | select (b : Bank)
  | claiming (b : Bank)
  | commitAdm (b : Bank) (e : Epochs) (digest : Bytes)
  /-- first step of a confirmation (R187) -/
  | confirmBank (b : Bank) (e : Epochs) (digest : Bytes)
  /-- third step of a confirmation: reject the other bank (R189) -/
  | confirmReject (other : Bank)
deriving DecidableEq, Repr

/-- A change asked for; `live` while the asker exists. -/
structure Asked where
  change : Change
  live   : Bool
deriving DecidableEq, Repr

/-- The one outstanding change: `built` is the record of its job once the job is filed (R153). -/
structure Active where
  asked : Asked
  built : Option BootRec
deriving DecidableEq, Repr

/-- An advance outcome: status and value reached (R42). -/
structure AdvOut where
  status : Status
  value  : Nat
deriving DecidableEq, Repr

/-- A confirmation in progress (R187 to R190). `live` while its reply is wanted. -/
structure Confirm where
  bank   : Bank
  epochs : Epochs
  outs   : List AdvOut
  live   : Bool
deriving DecidableEq, Repr

/-- What the boot controller waits for. -/
inductive Stage where
  /-- before the start-up load ends (R154) -/
  | reset
  /-- the waits at the beginning of a boot phase (R155) -/
  | phaseWait
  | waiting
  | trialsWait (p : Bank)
  | incWait (p : Bank)
  | checking (b : Bank) (factory : Bool)
  | rejectWait (b : Bank)
  | passWait (b : Bank) (factory : Bool)
  | floors (b : Bank)
  | releaseReady (m : BootMode) (b : Option Bank)
  /-- a release that waits for the close of the boot lanes (R136) -/
  | releaseClosing (m : BootMode) (b : Option Bank)
  | failed
  | released
deriving DecidableEq, Repr

/-- The boot phase's copy of settings 1, 2 and 3 (R155). -/
structure PhaseCopy where
  base0 : Nat
  base1 : Nat
  size  : Nat
deriving DecidableEq, Repr

/-- The epochs and manifest digest of the last pass (R186). -/
structure PassInfo where
  epochs : Epochs
  digest : Bytes
deriving DecidableEq, Repr

/-- The boot controller. -/
structure Boot where
  stage      : Stage
  state      : BootState
  mode       : BootMode
  booted     : Option Bank
  reason0    : BootReason
  reason1    : BootReason
  phaseCopy  : PhaseCopy
  record     : BootRec
  changes    : List Asked
  active     : Option Active
  tried0     : Bool
  tried1     : Bool
  assumed    : Option Bank
  passStatus : Option Status
  factory    : List AdvOut
  bootedPass : Option PassInfo
  confirm    : Option Confirm
deriving DecidableEq, Repr

/-! ### Image checker (chapters 9 and 10) -/

/-- A flash read (R161 to R165). -/
inductive FlashRead where
  | id
  | manifest
  | chunk (n : Nat)
deriving DecidableEq, Repr

/-- The flash read in flight; `dropped` when its bytes are to be dropped (R181). -/
structure FlashBusy where
  read    : FlashRead
  dropped : Bool
deriving DecidableEq, Repr

/-- Which work the checker is doing. -/
inductive CheckWork where
  | none | boot | admission
deriving DecidableEq, Repr

/-- What ADMISSION STATUS reports of a pass after the manifest copy is discarded (R180). -/
structure AdmResult where
  epochs : Epochs
  digest : Bytes
  segs   : Nat
deriving DecidableEq, Repr

/-- The image checker. `state` is the step of the check in progress, in either mode. -/
structure Checker where
  work      : CheckWork
  state     : CheckState
  bank      : Bank
  manifest  : Bytes
  manDigest : Option Bytes
  anchor    : Option Bytes
  segIndex  : Nat
  descAddr  : Nat
  descRem   : Nat
  chunk     : Bytes
  digest    : Option DigestState
  extended  : Nat
  flash     : Option FlashBusy
  startWait : Bool
  adm       : AdmState
  admBank   : Option Bank
  admReason : Option AdmReason
  claimed   : Bool
  result    : Option AdmResult
  fown      : Bool
deriving DecidableEq, Repr

/-! ### The whole part -/

/-- The state of the HK48 and the queue of the commands that wait. -/
structure State where
  power    : Power
  rcv      : Bool
  hold     : Bool
  link     : Link
  chS      : Channel
  chA      : Channel
  settings : Settings
  engine   : Engine
  ota      : Ota
  store    : Store
  guard    : Guard
  owner    : Owner
  ctx      : CtxTable
  meas     : Meas
  boot     : Boot
  checker  : Checker
  pending  : List Instr
deriving DecidableEq, Repr

/-! ### Reset values -/

/-- A channel from power-on until it opens (R12, R14). -/
def Channel.reset : Channel :=
  { state := .closed, rxLen := [], rx := [], condemned := false, reply := none, work := .none,
    ev1 := false, ev2 := false, ev3 := false, grants := 0#6 }

/-- The defaults of section 1.8. -/
def Settings.defaults : Settings :=
  { bank0Base := 0, bank1Base := 0x800000, bankSize := 8388608, ownerIdle := 300, enablesA := 7, enablesS := 7,
    grantsA := 0x3E }

/-- Engine free, no claim, order S, A, F, no attestation key (R27, R34). -/
def Engine.reset : Engine :=
  { running := none, claimS := none, claimA := none, claimF := none, order := [.S, .A, .F], attest := none }

/-- The one-time cells as they leave manufacture, with no defective cell (R35, log 5). -/
def Cells.blank : Cells :=
  { page0 := List.replicate 256 0xFF#8, seed := List.replicate 32 0xFF#8, seedCompl := List.replicate 32 0xFF#8,
    keysMarker := 0xFF#8, roots := List.replicate 4 { digest := List.replicate 32 0xFF#8, marker := 0xFF#8 },
    loader := BitVec.allOnes 255, system := BitVec.allOnes 255, radio := BitVec.allOnes 255,
    ownerEpoch := BitVec.allOnes 64, retired := BitVec.allOnes 40, locks := 0#5 }

/-- The OTA controller's RAM before the load (R52, log 8), over given cells. -/
def Ota.reset (cells : Cells) : Ota :=
  { cells := cells, identity := none, keysExist := false,
    roots := List.replicate 4 { present := false, digest := List.replicate 32 0#8 },
    loader := 0, system := 0, radio := 0, epoch := 0, lifecycle := .blank, current := none, queue := [] }

/-- The store controller's RAM before the scan (R78, log 8), over a given array. -/
def Store.reset (mem : List Host.Cell) : Store :=
  { mem := mem, used := [], blocks := List.replicate 40 .free, map := [], taken := none, op := none, comp := none,
    fifo := [], waiters := [], degraded := false, fault := none, markOut := false, marksHeld := [] }

/-- The guard at power-on (R75). -/
def Guard.powerOn : Guard := { lower := 1, upper := 0, invert := false, frozen := false }

/-- The owner verification unit before the load (R99, R101, R111). -/
def Owner.reset : Owner := { uptime := 0, table := [], grant := none, idleDue := false }

/-- Twelve FREE entries with epoch 0 and counter 0 (R119). -/
def CtxTable.reset : CtxTable := { entries := List.replicate 12 { epoch := 0#8, ctx := none }, counter := 0 }

/-- Lanes zero, log empty, boot lanes not yet open (R136, R150). -/
def Meas.reset : Meas := { lanes := List.replicate 8 (List.replicate 32 0#8), log := [], bootOpen := false }

/-- The empty boot record (R152). -/
def BootRec.empty : BootRec :=
  { preferred := .b0,
    bank0 := { state := .unknown, trials := 0, epochs := { loader := 0, system := 0, radio := 0 },
               digest := List.replicate 32 0#8 },
    bank1 := { state := .unknown, trials := 0, epochs := { loader := 0, system := 0, radio := 0 },
               digest := List.replicate 32 0#8 } }

/-- The boot controller until the start-up load ends (R154). -/
def Boot.reset : Boot :=
  { stage := .reset, state := .waiting, mode := .none, booted := none, reason0 := .none, reason1 := .none,
    phaseCopy := { base0 := 0, base1 := 0x800000, size := 8388608 }, record := BootRec.empty, changes := [], active := none,
    tried0 := false, tried1 := false, assumed := none, passStatus := none, factory := [], bootedPass := none,
    confirm := none }

/-- The image checker IDLE in boot mode, FOWN asserted, admission IDLE (R161, R166, R174). -/
def Checker.reset : Checker :=
  { work := .none, state := .idle, bank := .b0, manifest := [], manDigest := none, anchor := none, segIndex := 0,
    descAddr := 0, descRem := 0, chunk := [], digest := none, extended := 0, flash := none, startWait := false,
    adm := .idle, admBank := none, admReason := none, claimed := false, result := none,
    fown := true }

/-- The part after power-on over a blank one-time area and an erased store, before the start-up load (R14, log 5, log 6). -/
def State.reset : State :=
  { power := .inReset, rcv := false, hold := true, link := { line := .waitStart, ack := none, dataOut := [] },
    chS := Channel.reset, chA := Channel.reset, settings := Settings.defaults, engine := Engine.reset,
    ota := Ota.reset Cells.blank, store := Store.reset [], guard := Guard.powerOn, owner := Owner.reset,
    ctx := CtxTable.reset, meas := Meas.reset, boot := Boot.reset, checker := Checker.reset, pending := [] }

end Sys2Proof.Machine
end

