-- ==== Sys2Proof/Machine/Crypto.lean ====
section
/-! DEFINITION. The computations of the crypto engine (chapter 2): SHA-256, ECDSA over P-256, DERIVE, STRETCH, KEYGEN. -/
namespace Sys2Proof.Machine

/-! ### SHA-256 (section 2.1.1) -/

/-- The initial value of SHA-256. -/
def shaInit : List Word :=
  [0x6a09e667#32, 0xbb67ae85#32, 0x3c6ef372#32, 0xa54ff53a#32,
   0x510e527f#32, 0x9b05688c#32, 0x1f83d9ab#32, 0x5be0cd19#32]

/-- The 64 round constants of SHA-256. -/
def shaK : List Word :=
  [0x428a2f98#32, 0x71374491#32, 0xb5c0fbcf#32, 0xe9b5dba5#32, 0x3956c25b#32, 0x59f111f1#32, 0x923f82a4#32, 0xab1c5ed5#32] ++
  [0xd807aa98#32, 0x12835b01#32, 0x243185be#32, 0x550c7dc3#32, 0x72be5d74#32, 0x80deb1fe#32, 0x9bdc06a7#32, 0xc19bf174#32] ++
  [0xe49b69c1#32, 0xefbe4786#32, 0x0fc19dc6#32, 0x240ca1cc#32, 0x2de92c6f#32, 0x4a7484aa#32, 0x5cb0a9dc#32, 0x76f988da#32] ++
  [0x983e5152#32, 0xa831c66d#32, 0xb00327c8#32, 0xbf597fc7#32, 0xc6e00bf3#32, 0xd5a79147#32, 0x06ca6351#32, 0x14292967#32] ++
  [0x27b70a85#32, 0x2e1b2138#32, 0x4d2c6dfc#32, 0x53380d13#32, 0x650a7354#32, 0x766a0abb#32, 0x81c2c92e#32, 0x92722c85#32] ++
  [0xa2bfe8a1#32, 0xa81a664b#32, 0xc24b8b70#32, 0xc76c51a3#32, 0xd192e819#32, 0xd6990624#32, 0xf40e3585#32, 0x106aa070#32] ++
  [0x19a4c116#32, 0x1e376c08#32, 0x2748774c#32, 0x34b0bcb5#32, 0x391c0cb3#32, 0x4ed8aa4a#32, 0x5b9cca4f#32, 0x682e6ff3#32] ++
  [0x748f82ee#32, 0x78a5636f#32, 0x84c87814#32, 0x8cc70208#32, 0x90befffa#32, 0xa4506ceb#32, 0xbef9a3f7#32, 0xc67178f2#32]

/-- The eight working variables of a round. -/
structure ShaRegs where
  a : Word
  b : Word
  c : Word
  d : Word
  e : Word
  f : Word
  g : Word
  h : Word
deriving DecidableEq, Repr

/-- One round with its constant and schedule word. -/
def shaRound (r : ShaRegs) (k w : Word) : ShaRegs :=
  let s1 := r.e.rotateRight 6 ^^^ r.e.rotateRight 11 ^^^ r.e.rotateRight 25
  let ch := (r.e &&& r.f) ^^^ (~~~ r.e &&& r.g)
  let t1 := r.h + s1 + ch + k + w
  let s0 := r.a.rotateRight 2 ^^^ r.a.rotateRight 13 ^^^ r.a.rotateRight 22
  let maj := (r.a &&& r.b) ^^^ (r.a &&& r.c) ^^^ (r.b &&& r.c)
  { a := t1 + (s0 + maj), b := r.a, c := r.b, d := r.c, e := r.d + t1, f := r.e, g := r.f, h := r.g }

/-- The next schedule word from the 16 last ones, newest first. -/
def shaNextWord (win : List Word) : Word :=
  let x := win.getD 1 0#32
  let y := win.getD 14 0#32
  (x.rotateRight 17 ^^^ x.rotateRight 19 ^^^ x >>> 10) + win.getD 6 0#32
    + (y.rotateRight 7 ^^^ y.rotateRight 18 ^^^ y >>> 3) + win.getD 15 0#32

/-- `n` further schedule words, oldest first, after the window `win` (newest first). -/
def shaExtend : (n : Nat) → (win : List Word) → List Word
  | 0, _ => []
  | n + 1, win =>
    let w := shaNextWord win
    w :: shaExtend n (w :: win.take 15)

/-- `n` big-endian words of a byte string. -/
def wordsOf : (n : Nat) → Bytes → List Word
  | 0, _ => []
  | n + 1, bs => BitVec.ofNat 32 (beNat (bs.take 4)) :: wordsOf n (bs.drop 4)

/-- One 64-byte block absorbed into the intermediate value. -/
def shaBlock (h : List Word) (block : Bytes) : List Word :=
  let w := wordsOf 16 block
  let ws := w ++ shaExtend 48 w.reverse
  let r0 : ShaRegs :=
    { a := h.getD 0 0#32, b := h.getD 1 0#32, c := h.getD 2 0#32, d := h.getD 3 0#32,
      e := h.getD 4 0#32, f := h.getD 5 0#32, g := h.getD 6 0#32, h := h.getD 7 0#32 }
  let r := (shaK.zip ws).foldl (fun r kw => shaRound r kw.1 kw.2) r0
  [r0.a + r.a, r0.b + r.b, r0.c + r.c, r0.d + r.d, r0.e + r.e, r0.f + r.f, r0.g + r.g, r0.h + r.h]

/-- Absorb `n` whole blocks. -/
def shaBlocks : (n : Nat) → List Word → Bytes → List Word
  | 0, h, _ => h
  | n + 1, h, bs => shaBlocks n (shaBlock h (bs.take 64)) (bs.drop 64)

/-- The state before any byte (section 2.1.1). -/
def DigestState.fresh : DigestState := { h := shaInit, tail := [], count := 0 }

/-- A running digest state after some more bytes (R24). -/
def DigestState.feed (d : DigestState) (bs : Bytes) : DigestState :=
  let all := d.tail ++ bs
  let n := all.length / 64
  { h := shaBlocks n d.h all, tail := all.drop (64 * n), count := d.count + bs.length }

/-- The digest of all bytes fed (R24). -/
def DigestState.finish (d : DigestState) : Bytes :=
  let zeros := (119 - d.tail.length) % 64
  let last := d.tail ++ 0x80#8 :: (List.replicate zeros 0#8 ++ be 8 (8 * d.count))
  (shaBlocks (last.length / 64) d.h last).flatMap fun w => be 4 w.toNat

/-- "The digest of" a byte string (section 2.1.1). -/
def digestOf (bs : Bytes) : Bytes := (DigestState.fresh.feed bs).finish

/-! ### The P-256 curve (section 2.1.2) -/

/-- The field prime of P-256. -/
def p256 : Nat := 0xffffffff00000001000000000000000000000000ffffffffffffffffffffffff

/-- The order n of the base point. -/
def order256 : Nat := 0xffffffff00000000ffffffffffffffffbce6faada7179e84f3b9cac2fc632551

/-- The curve's constant b; its a is -3. -/
def coeffB : Nat := 0x5ac635d8aa3a93e7b3ebbd55769886bc651d06b0cc53b0f63bce3c3e27d2604b

/-- A point of the curve; none is the point at infinity. -/
abbrev Point := Option (Nat × Nat)

/-- The base point G. -/
def baseG : Point :=
  some (0x6b17d1f2e12c4247f8bce6e563a440f277037d812deb33a0f4a13945d898c296,
        0x4fe342e2fe1a7f9b8ee7eb4a7c0f9e162bce33576b315ececbb6406837bf51f5)

/-- b to the power e modulo m, over at most `fuel` bits of e. -/
def powMod (m : Nat) : (fuel : Nat) → (b e : Nat) → Nat
  | 0, _, _ => 1 % m
  | fuel + 1, b, e =>
    let h := powMod m fuel b (e / 2)
    if e % 2 = 1 then h * h % m * b % m else h * h % m

/-- The inverse modulo a prime m. -/
def invMod (m x : Nat) : Nat := powMod m 256 (x % m) (m - 2)

/-- x - y modulo m, for y below m. -/
def subMod (m x y : Nat) : Nat := (x + (m - y % m)) % m

/-- The point is on the curve (R26). -/
def onCurve (x y : Nat) : Bool := x < p256 && y < p256 && y * y % p256 == (x * x * x + (p256 - 3) * x + coeffB) % p256

/-- The third point for a slope, reflected. -/
def chord (lam x1 y1 x2 : Nat) : Point :=
  let x3 := subMod p256 (subMod p256 (lam * lam) x1) x2
  some (x3, subMod p256 (lam * subMod p256 x1 x3) y1)

/-- Addition of points. -/
def addPoint : Point → Point → Point
  | none, q => q
  | p, none => p
  | some (x1, y1), some (x2, y2) =>
    if x1 = x2 then
      if (y1 + y2) % p256 = 0 then none
      else chord ((3 * x1 * x1 + (p256 - 3)) % p256 * invMod p256 (2 * y1) % p256) x1 y1 x2
    else chord (subMod p256 y2 y1 * invMod p256 (subMod p256 x2 x1) % p256) x1 y1 x2

/-- k times a point, over at most `fuel` bits of k. -/
def mulPoint (p : Point) : (fuel : Nat) → (k : Nat) → Point
  | 0, _ => none
  | fuel + 1, k =>
    if k = 0 then none
    else
      let h := mulPoint p fuel (k / 2)
      let d := addPoint h h
      if k % 2 = 1 then addPoint d p else d

/-- The x coordinate reduced modulo n; 0 for the point at infinity. -/
def xModOrder : Point → Nat
  | none => 0
  | some (x, _) => x % order256

/-- The 64 bytes of a public key, x then y; 64 zero bytes for the point at infinity. -/
def pointBytes : Point → Bytes
  | none => List.replicate 64 0#8
  | some (x, y) => be 32 x ++ be 32 y

/-- The public key of a private scalar (section 2.1.2). -/
def publicKey (scalar : Bytes) : Bytes := pointBytes (mulPoint baseG 256 (beNat scalar))

/-- VERIFY_SIGNATURE (R26). -/
def verifySignature (key digest sig : Bytes) : Bool :=
  let x := beNat (key.take 32)
  let y := beNat (key.drop 32)
  let r := beNat (sig.take 32)
  let s := beNat (sig.drop 32)
  let w := invMod order256 s
  let e := beNat digest
  let pt := addPoint (mulPoint baseG 256 (e * w % order256)) (mulPoint (some (x, y)) 256 (r * w % order256))
  onCurve x y && 1 ≤ r && r < order256 && 1 ≤ s && s < order256 && pt.isSome && xModOrder pt == r

/-- The value k of an attempt, in 1..n-1 (R26); which one is not given (log 9). -/
def signNonce (scalar digest : Bytes) (attempt : Nat) : Nat := Config.signK scalar digest attempt % (order256 - 1) + 1

/-- r and s of one attempt (R26). -/
def signAttempt (scalar digest : Bytes) (k : Nat) : Nat × Nat :=
  let r := xModOrder (mulPoint baseG 256 k)
  (r, invMod order256 k * ((beNat digest + r * beNat scalar) % order256) % order256)

/-- r and s of a value k are both other than 0 (R26). -/
def goodNonce (scalar digest : Bytes) (k : Nat) : Bool :=
  (signAttempt scalar digest k).1 != 0 && (signAttempt scalar digest k).2 != 0

/-- The values k in the order of the attempts: those of the construction, and after 64 of them 1 and then 2, of which one is
good for every private scalar (log 9). -/
def signNonces (scalar digest : Bytes) : List Nat := (List.range 64).map (signNonce scalar digest) ++ [1, 2]

/-- r and s of the first value k that gives neither as 0: the repetition of R26. -/
def signPair (scalar digest : Bytes) : Nat × Nat :=
  signAttempt scalar digest (((signNonces scalar digest).find? (goodNonce scalar digest)).getD 1)

/-- SIGN (R26): r followed by s. -/
def signatureOf (scalar digest : Bytes) : Bytes :=
  let rs := signPair scalar digest
  be 32 rs.1 ++ be 32 rs.2

/-! ### Attestation key, derivation, stretching, key generation -/

/-- The attestation key of a device seed (R27). -/
def attestKeyOf (seed : Bytes) : AttestKey :=
  let scalar := be 32 (beNat (digestOf (seed ++ ascii "HK48ATTS")) % (order256 - 1) + 1)
  { scalar := scalar, pub := publicKey scalar }

/-- DERIVE (R28). -/
def deriveOf (key info : Bytes) : Bytes := digestOf (key ++ BitVec.ofNat 8 info.length :: info)

/-- `n` further values after `v`, each the digest of the one before followed by the salt (R28). -/
def stretchSteps (salt : Bytes) : (n : Nat) → (v : Bytes) → Bytes
  | 0, v => v
  | n + 1, v => stretchSteps salt n (digestOf (v ++ salt))

/-- STRETCH (R28): V4096. -/
def stretchOf (salt candidate : Bytes) : Bytes := stretchSteps salt 4095 (digestOf (salt ++ candidate))

/-- The result of EXTEND (R25). -/
def extendOf (value digest : Bytes) : Bytes := digestOf (value ++ digest)

/-- The first draw that is a private scalar, 1..n-1 (R29). -/
def scalarOf (draws : List Bytes) : Option Bytes :=
  (draws.map (fit 32 0#8)).find? fun d => 1 ≤ beNat d && beNat d < order256

/-- The first 32 bytes drawn (R29). -/
def drawOf (draws : List Bytes) : Bytes := fit 32 0#8 (draws.headD [])

end Sys2Proof.Machine
end

