-- ==== Sys2Proof/Machine/Layout.lean ====
section
/-! DEFINITION. Codes and byte layouts of chapter 11, and the clamping of settings and throttle parameters. -/
namespace Sys2Proof.Machine

/-! ### Codes (tables 11.2.3 and 11.5) -/

/-- Status codes (table 11.2.3). -/
def Status.code : Status → Byte
  | .ok => 0x00#8 | .accepted => 0x01#8 | .noReply => 0x02#8
  | .frameCheck => 0x10#8 | .frameLength => 0x11#8 | .frameShort => 0x12#8 | .unknownRequest => 0x13#8
  | .badArgument => 0x20#8 | .notPermitted => 0x21#8 | .wrongState => 0x22#8 | .busy => 0x23#8 | .noRoom => 0x24#8
  | .noSlot => 0x30#8 | .slotKind => 0x31#8 | .guarded => 0x32#8 | .generationMismatch => 0x33#8
  | .storeFull => 0x34#8 | .storeFault => 0x35#8 | .otpFault => 0x36#8 | .rollback => 0x37#8
  | .throttled => 0x40#8 | .lockedOut => 0x41#8 | .mismatch => 0x42#8
  | .policy => 0x50#8 | .staleHandle => 0x51#8 | .logFull => 0x52#8 | .rngFault => 0x53#8

def Kind.code : Kind → Byte
  | .empty => 1#8 | .verifier => 2#8 | .secret => 3#8 | .signingKey => 4#8
  | .linkKey => 5#8 | .trustAnchor => 6#8 | .settings => 7#8 | .bootRecord => 8#8

/-- The kind of a code, none outside the eight (R60). -/
def Kind.ofCode (b : Byte) : Option Kind :=
  match b.toNat with
  | 1 => some .empty | 2 => some .verifier | 3 => some .secret | 4 => some .signingKey
  | 5 => some .linkKey | 6 => some .trustAnchor | 7 => some .settings | 8 => some .bootRecord
  | _ => none

def Domain.code : Domain → Byte
  | .platform => 1#8 | .update => 2#8 | .owner => 3#8 | .network => 4#8 | .client => 5#8 | .service => 6#8

def Domain.ofCode (b : Byte) : Option Domain :=
  match b.toNat with
  | 1 => some .platform | 2 => some .update | 3 => some .owner | 4 => some .network
  | 5 => some .client | 6 => some .service
  | _ => none

/-- The code of a record's domain; none is 0 (table 11.5). -/
def domainCode : Option Domain → Byte
  | none => 0#8
  | some d => d.code

/-- A domain's bit in a domain set (R191). -/
def Domain.bit : Domain → Nat
  | .platform => 0 | .update => 1 | .owner => 2 | .network => 3 | .client => 4 | .service => 5

/-- The six domains in the order of their bits. -/
def allDomains : List Domain := [.platform, .update, .owner, .network, .client, .service]

def Lifecycle.code : Lifecycle → Byte
  | .blank => 1#8 | .personalized => 2#8 | .sealed => 3#8 | .failed => 4#8

def BootState.code : BootState → Byte
  | .waiting => 1#8 | .verifying => 2#8 | .released => 3#8 | .bootFailed => 4#8

def BootMode.code : BootMode → Byte
  | .none => 0#8 | .normal => 1#8 | .recovery => 2#8

def Bank.code : Bank → Byte
  | .b0 => 0#8 | .b1 => 1#8

def Bank.ofCode (b : Byte) : Option Bank :=
  match b.toNat with
  | 0 => some .b0 | 1 => some .b1
  | _ => none

/-- The other bank. -/
def Bank.other : Bank → Bank
  | .b0 => .b1 | .b1 => .b0

/-- A bank, or none as 0xFF (R191). -/
def bankCode : Option Bank → Byte
  | none => 0xFF#8
  | some b => b.code

/-- A block number, or none as 0xFF (R191). -/
def blockCode : Option Nat → Byte
  | none => 0xFF#8
  | some n => BitVec.ofNat 8 n

def BankState.code : BankState → Byte
  | .unknown => 0#8 | .trial => 1#8 | .admitted => 2#8 | .rejected => 3#8

def BankState.ofCode (b : Byte) : Option BankState :=
  match b.toNat with
  | 0 => some .unknown | 1 => some .trial | 2 => some .admitted | 3 => some .rejected
  | _ => none

def SegKind.ofCode (b : Byte) : Option SegKind :=
  match b.toNat with
  | 1 => some .loader | 2 => some .system | 3 => some .radio | 4 => some .data
  | _ => none

/-- The log label of a segment: its kind's name (11.4.2). -/
def SegKind.name : SegKind → Bytes
  | .loader => ascii "LOADER" | .system => ascii "SYSTEM" | .radio => ascii "RADIO" | .data => ascii "DATA"

def Source.code : Source → Byte
  | .part => 1#8 | .supervisor => 2#8 | .application => 3#8 | .recovery => 4#8

/-- The code of an event, 0 for NONE. -/
def eventCode : Option Event → Byte
  | none => 0#8
  | some .bootFailed => 1#8 | some .bootDone => 2#8 | some .storeFault => 3#8
  | some .ownerGrantEnded => 4#8 | some .admissionDone => 5#8

def FaultKind.code : FaultKind → Byte
  | .eraseFailed => 1#8 | .retireMarkFailed => 2#8 | .degraded => 3#8

def CheckState.code : CheckState → Byte
  | .idle => 0#8 | .reading => 1#8 | .checking => 2#8 | .hashing => 3#8 | .recording => 4#8

def AdmState.code : AdmState → Byte
  | .idle => 0#8 | .claiming => 1#8 | .reading => 2#8 | .checking => 3#8
  | .hashing => 4#8 | .committing => 5#8 | .passed => 6#8 | .failed => 7#8

def AdmReason.code : AdmReason → Byte
  | .check .badManifest => 1#8 | .check .signer => 2#8 | .check .signature => 3#8
  | .check .rollback => 4#8 | .check .digest => 5#8 | .check .flashFault => 6#8
  | .aborted => 7#8 | .storeFault => 8#8

def BootReason.code : BootReason → Byte
  | .none => 0#8 | .trials => 1#8 | .storeFault => 2#8
  | .check .flashFault => 3#8 | .check .badManifest => 4#8 | .check .signer => 5#8
  | .check .signature => 6#8 | .check .rollback => 7#8 | .check .digest => 8#8

/-- Yes or no as a byte (R191). -/
def flagByte (b : Bool) : Byte := if b then 1#8 else 0#8

/-- A content given only in some cases: presence byte, then the content (R191). -/
def optBytes : Option Bytes → Bytes
  | none => [0#8]
  | some bs => 1#8 :: bs

/-- A small count or code as one byte. -/
def byte (n : Nat) : Byte := BitVec.ofNat 8 n

/-! ### Slot records (table 11.3.1) -/

/-- The record bytes before the check. -/
def recordBody (slot : Nat) (gen : Word) (r : Rec) : Bytes :=
  byte slot :: be 4 gen.toNat ++ [r.kind.code, domainCode r.domain, r.flags, flagByte r.needsOwner, r.mask]
    ++ r.composite ++ byte r.label.length :: r.label ++ byte r.payload.length :: r.payload

/-- The 256 bytes of a page that holds the record: record, check, then 0xFF (R57). -/
def recordPage (slot : Nat) (gen : Word) (r : Rec) : Bytes :=
  let b := recordBody slot gen r
  fit 256 0xFF#8 (b ++ crcBytes b)

/-- The bytes of the record in a page, with its check, by its label and payload lengths (table 11.3.1). -/
def recordOf (p : Bytes) : Bytes :=
  let ll := (byteAt p 42).toNat
  p.take (46 + ll + (byteAt p (43 + ll)).toNat)

/-- A kind is allowed at a slot id (R58). -/
def Kind.allowedAt (k : Kind) (slot : Nat) : Bool :=
  match k with
  | .settings => slot == 0
  | .bootRecord => slot == 255
  | .empty | .verifier | .secret | .signingKey | .linkKey | .trustAnchor => 1 ≤ slot && slot ≤ 254

/-- What a good page holds (R60). -/
structure GoodPage where
  slot : Nat
  gen  : Word
  r    : Rec
deriving DecidableEq, Repr

/-- The record of a page when the page is good (R60), none otherwise. An undefined domain code gives domain none, a
needs-owner-grant byte other than 0 counts as yes (log 26). -/
def parsePage (p : Bytes) : Option GoodPage :=
  let gen := BitVec.ofNat 32 (beNat (slice p 1 4))
  let ll := (byteAt p 42).toNat
  let lp := (byteAt p (43 + ll)).toNat
  let slot := (byteAt p 0).toNat
  match Kind.ofCode (byteAt p 5) with
  | none => none
  | some k =>
    if gen ≠ 0#32 ∧ ll ≤ 24 ∧ lp ≤ 160 ∧ slice p (44 + ll + lp) 2 = crcBytes (p.take (44 + ll + lp))
        ∧ k.allowedAt slot = true then
      some { slot := slot, gen := gen,
             r := { kind := k, domain := Domain.ofCode (byteAt p 6), flags := byteAt p 7,
                    needsOwner := byteAt p 8 != 0#8, mask := byteAt p 9, composite := slice p 10 32,
                    label := slice p 43 ll, payload := slice p (44 + ll) lp } }
    else none

/-- 32 zero bytes. -/
def zeros32 : Bytes := List.replicate 32 0#8

/-- A tombstone (R80). -/
def tombstone : Rec :=
  { kind := .empty, domain := none, flags := 0#8, needsOwner := false, mask := 0#8, composite := zeros32,
    label := [], payload := [] }

/-- A record of slot 0 or 255 (R57). -/
def plainRec (k : Kind) (payload : Bytes) : Rec :=
  { kind := k, domain := none, flags := 0#8, needsOwner := false, mask := 0#8, composite := zeros32,
    label := [], payload := payload }

/-! ### Settings (section 1.8) -/

/-- The value of a setting by its number. -/
def Settings.get (s : Settings) : (num : Nat) → Nat
  | 1 => s.bank0Base | 2 => s.bank1Base | 3 => s.bankSize | 4 => s.ownerIdle
  | 5 => s.enablesA | 6 => s.enablesS | 7 => s.grantsA
  | _ => 0

/-- The settings with one value replaced. -/
def Settings.set (s : Settings) (num val : Nat) : Settings :=
  match num with
  | 1 => { s with bank0Base := val }
  | 2 => { s with bank1Base := val }
  | 3 => { s with bankSize := val }
  | 4 => { s with ownerIdle := val }
  | 5 => { s with enablesA := val }
  | 6 => { s with enablesS := val }
  | 7 => { s with grantsA := val }
  | _ => s

/-- A value brought to the nearest end of its range (section 5.6). -/
def clamp (lo hi v : Nat) : Nat := max lo (min hi v)

/-- The clamping of a setting's value (R22 step 2). -/
def clampSetting (num val : Nat) : Nat :=
  match num with
  | 1 | 2 => clamp 0 0xFFF000 val / 4096 * 4096
  | 3 => clamp 65536 16777216 val / 4096 * 4096
  | 4 => clamp 60 3600 val
  | 5 | 6 => val % 8
  | 7 => val % 64
  | _ => val

/-- The payload of slot 0 (table 11.3.2). -/
def settingsPayload (s : Settings) : Bytes :=
  be 4 s.bank0Base ++ be 4 s.bank1Base ++ be 4 s.bankSize ++ be 4 s.ownerIdle
    ++ be 4 s.enablesA ++ be 4 s.enablesS ++ be 4 s.grantsA

/-- The settings of a slot 0 payload: the defaults when its length is not 28, each value clamped (R50, R192). -/
def settingsOf (p : Bytes) : Settings :=
  if p.length = 28 then
    let v := fun (num : Nat) => clampSetting num (beNat (slice p (4 * (num - 1)) 4))
    { bank0Base := v 1, bank1Base := v 2, bankSize := v 3, ownerIdle := v 4, enablesA := v 5, enablesS := v 6,
      grantsA := v 7 }
  else Settings.defaults

/-! ### Verifier payload (table 11.3.3) -/

/-- The default throttle parameters (R100). -/
def Params.defaults : Params := { F := 5, B := 2, C := 3600, L := 20, P := 30 }

/-- The clamping of given parameters, in the order F, B, C, L, P (R100). -/
def Params.clamped (p : Params) : Params :=
  let f := clamp 0 15 p.F
  let b := clamp 1 255 p.B
  { F := f, B := b, C := clamp b 86400 p.C,
    L := if p.L = 0 then 0 else clamp (f + 1) 255 p.L, P := clamp 0 10080 p.P }

/-- The parameters are in their ranges (R100). -/
def Params.inRange (p : Params) : Bool :=
  p.F ≤ 15 && 1 ≤ p.B && p.B ≤ 255 && p.B ≤ p.C && p.C ≤ 86400 && (p.L == 0 || (p.F < p.L && p.L ≤ 255)) && p.P ≤ 10080

/-- The parameters as carried in requests, payloads and replies: F, B, C, L, P. -/
def paramsBytes (p : Params) : Bytes := [byte p.F, byte p.B] ++ be 4 p.C ++ byte p.L :: be 2 p.P

/-- A verifier payload; `marker` is the failure time marker's uptime when set. -/
def verifierPayload (salt value : Bytes) (p : Params) (count : Nat) (marker : Option Nat) : Bytes :=
  salt ++ value ++ paramsBytes p ++ byte count :: flagByte marker.isSome :: be 4 (marker.getD 0)

def verifierSalt (p : Bytes) : Bytes := slice p 0 16
def verifierValue (p : Bytes) : Bytes := slice p 16 32
def verifierParams (p : Bytes) : Params :=
  { F := (byteAt p 48).toNat, B := (byteAt p 49).toNat, C := beNat (slice p 50 4), L := (byteAt p 54).toNat,
    P := beNat (slice p 55 2) }
def verifierCount (p : Bytes) : Nat := (byteAt p 57).toNat

/-- The failure time marker: its uptime when set. Table 11.3.3 gives 0 and 1 only; that every other stored byte reads as set is the
model's choice (log 42). -/
def verifierMarker (p : Bytes) : Option Nat := if byteAt p 58 = 0#8 then none else some (beNat (slice p 59 4))

/-- A VERIFIER record that its readers accept (R192). -/
def goodVerifier (r : Rec) : Bool := r.kind == .verifier && r.payload.length == 63 && (verifierParams r.payload).inRange

/-! ### Boot record (table 11.3.4) -/

def epochsBytes (e : Epochs) : Bytes := [byte e.loader, byte e.system, byte e.radio]

def bankRecBytes (b : BankRec) : Bytes := b.state.code :: byte b.trials :: epochsBytes b.epochs ++ b.digest

def bootRecPayload (r : BootRec) : Bytes := r.preferred.code :: bankRecBytes r.bank0 ++ bankRecBytes r.bank1

/-- The bank fields at an offset, none when a code or a trial count is out of range (R192). -/
def bankRecOf (p : Bytes) (off : Nat) : Option BankRec :=
  match BankState.ofCode (byteAt p off) with
  | none => none
  | some st =>
    let t := (byteAt p (off + 1)).toNat
    if t ≤ 3 then
      some { state := st, trials := t,
             epochs := { loader := (byteAt p (off + 2)).toNat, system := (byteAt p (off + 3)).toNat,
                         radio := (byteAt p (off + 4)).toNat },
             digest := slice p (off + 5) 32 }
    else none

/-- The boot record of a slot 255 payload; the empty record when it is out of form (R192). -/
def bootRecOf (p : Bytes) : BootRec :=
  match Bank.ofCode (byteAt p 0), bankRecOf p 1, bankRecOf p 38 with
  | some pr, some b0, some b1 =>
    if p.length = 75 then { preferred := pr, bank0 := b0, bank1 := b1 } else BootRec.empty
  | _, _, _ => BootRec.empty

def BootRec.bank (r : BootRec) : Bank → BankRec
  | .b0 => r.bank0
  | .b1 => r.bank1

def BootRec.setBank (r : BootRec) (b : Bank) (x : BankRec) : BootRec :=
  match b with
  | .b0 => { r with bank0 := x }
  | .b1 => { r with bank1 := x }

/-! ### Identity record (table 11.4.1) -/

/-- The 64-byte identity record that WRITE IDENTITY builds from its 21 argument bytes (R46): hardware revision, capability
flags, date code, serial. -/
def identityRecord (args : Bytes) : Bytes :=
  let body := 1#8 :: ascii "HK48" ++ args ++ complBytes (args.drop 5) ++ List.replicate 20 0#8
  body ++ crcBytes body

/-- An identity copy is good (R38). -/
def goodIdentity (c : Bytes) : Bool :=
  slice c 62 2 == crcBytes (c.take 62) && slice c 26 16 == complBytes (slice c 10 16)

/-! ### Manifest (table 11.4.2) -/

/-- A segment entry. -/
structure Segment where
  kind   : Option SegKind
  lane   : Nat
  offset : Nat
  length : Nat
  digest : Bytes
deriving DecidableEq, Repr

def manifestCount (m : Bytes) : Nat := (byteAt m 9).toNat

def manifestEpochs (m : Bytes) : Epochs :=
  { loader := (byteAt m 5).toNat, system := (byteAt m 6).toNat, radio := (byteAt m 7).toNat }

def manifestSigner (m : Bytes) : Nat := (byteAt m 8).toNat

def manifestSegment (m : Bytes) (i : Nat) : Segment :=
  let o := 10 + 42 * i
  { kind := SegKind.ofCode (byteAt m o), lane := (byteAt m (o + 1)).toNat, offset := beNat (slice m (o + 2) 4),
    length := beNat (slice m (o + 6) 4), digest := slice m (o + 10) 32 }

/-- The bytes before the signature, which the manifest digest covers (R164). -/
def manifestSigned (m : Bytes) : Bytes := m.take (10 + 42 * manifestCount m)

def manifestSignature (m : Bytes) : Bytes := slice m (10 + 42 * manifestCount m) 64

/-- The header tests (R163). -/
def goodHeader (m : Bytes) : Bool :=
  m.take 4 == ascii "ZMHK" && byteAt m 4 == 1#8 && 1 ≤ manifestCount m && manifestCount m ≤ 16

/-- The tests of one segment entry against the bank's base and size (R163). -/
def goodSegment (base size : Nat) (g : Segment) : Bool :=
  g.kind.isSome && g.lane ≤ 3 && 1 ≤ g.length && g.length ≤ 8388608 && g.offset + g.length ≤ size
    && base + g.offset + g.length ≤ 0x1000000

/-- The structure tests of a manifest (R163). -/
def goodManifest (base size : Nat) (m : Bytes) : Bool :=
  goodHeader m && (List.range (manifestCount m)).all fun i => goodSegment base size (manifestSegment m i)

/-- The length of the manifest in bytes (R163). -/
def manifestLength (m : Bytes) : Nat := 74 + 42 * manifestCount m

/-! ### Frames (table 11.2.1) -/

/-- The reply frame on the link: length, status, body, check (R2). -/
def Reply.frame (r : Reply) : Bytes :=
  let b := be 2 (1 + r.body.length) ++ r.status.code :: r.body
  b ++ crcBytes b

/-- The NO_REPLY frame (R10). -/
def noReplyFrame : Bytes := Reply.frame { status := .noReply, body := [] }

end Sys2Proof.Machine
end

