-- ==== Sys2Proof/Machine/Flags.lean ====
section
/-! DEFINITION. Event flags, event enables, attention lines and the other output pins (R14, R17, R18, R161). -/
namespace Sys2Proof.Machine

/-- The events of a channel, from highest to lowest priority (R17). -/
def Chan.events : Chan → List Event
  | .S => [.bootFailed, .bootDone, .storeFault]
  | .A => [.storeFault, .ownerGrantEnded, .admissionDone]

/-- The position of an event among a channel's three, none when the channel has no such event. -/
def eventIndex (ch : Chan) (e : Event) : Option Nat :=
  match ch, e with
  | .S, .bootFailed => some 0 | .S, .bootDone => some 1 | .S, .storeFault => some 2
  | .A, .storeFault => some 0 | .A, .ownerGrantEnded => some 1 | .A, .admissionDone => some 2
  | _, _ => none

/-- A channel's flag by position. -/
def Channel.flag (c : Channel) : Nat → Bool
  | 0 => c.ev1 | 1 => c.ev2 | 2 => c.ev3
  | _ => false

/-- A channel with one flag set or cleared. -/
def Channel.setFlag (c : Channel) (i : Nat) (v : Bool) : Channel :=
  match i with
  | 0 => { c with ev1 := v }
  | 1 => { c with ev2 := v }
  | 2 => { c with ev3 := v }
  | _ => c

/-- Raising an event toward a channel: its flag is set when the channel is open, the event is dropped when it is CLOSED
(R17). -/
def Channel.raise (c : Channel) (ch : Chan) (e : Event) : Channel :=
  if c.state = .closed then c
  else match eventIndex ch e with
    | none => c
    | some i => c.setFlag i true

/-- The pending event of highest priority, enabled or not (R19). -/
def Channel.firstFlag (c : Channel) : Option Nat :=
  if c.ev1 then some 0 else if c.ev2 then some 1 else if c.ev3 then some 2 else none

/-- The count of flags set (R19). -/
def Channel.flagCount (c : Channel) : Nat := c.ev1.toNat + c.ev2.toNat + c.ev3.toNat

/-- The enables of a channel: setting 6 for S, setting 5 for A; the table lists each channel's flags from the least
significant bit (section 1.8). For channel A the listing STORE_FAULT, OWNER_GRANT_ENDED, ADMISSION_DONE and for channel S the
listing BOOT_FAILED, BOOT_DONE, STORE_FAULT are both the order of priority. -/
def State.enables (s : State) : Chan → Nat
  | .S => s.settings.enablesS
  | .A => s.settings.enablesA

/-- One of two channels. -/
def State.chan (s : State) : Chan → Channel
  | .S => s.chS
  | .A => s.chA

/-- The attention line of a channel is asserted (R18): the channel holds a reply, or has a pending event whose enable is set;
released while the channel is CLOSED. -/
def State.attention (s : State) (ch : Chan) : Bool :=
  let c := s.chan ch
  let en := s.enables ch
  c.state != .closed &&
    (c.state == .replyReady || (c.ev1 && en.testBit 0) || (c.ev2 && en.testBit 1) || (c.ev3 && en.testBit 2))

/-- While FOWN is deasserted the port holds FCS_N high and FSCK and FSO low (R161): the three levels, none while the port
drives a command of its own. -/
def State.flashPins (s : State) : Option (Bool × Bool × Bool) :=
  if s.checker.fown then none else some (true, false, false)

end Sys2Proof.Machine
end

