-- ==== Sys2Proof/Machine/Ops.lean ====
section
/-! DEFINITION. The named operations over the store array, the slot map, the channels, the owner unit, the context table and
the measurement block that the commands share. -/
namespace Sys2Proof.Machine

/-! ### The store array (R53): a canonical sparse list of (address, byte), unlisted bytes read 0xFF -/

/-- What an unlisted address reads as: the erased value (log 6). -/
def Mem.erased : Byte := 0xFF#8

/-- The size of the array in bytes (R53). -/
def Mem.size : Nat := 163840

/-- The byte at an address. -/
def Mem.read : List Host.Cell → Nat → Byte
  | [], _ => Mem.erased
  | c :: rest, a => if c.1 = a then c.2 else Mem.read rest a

/-- One byte written; writing the erased value removes the entry. -/
def Mem.write : List Host.Cell → Nat → Byte → List Host.Cell
  | [], a, v => if v = Mem.erased then [] else [(a, v)]
  | c :: rest, a, v =>
    if c.1 < a then c :: Mem.write rest a v
    else if c.1 = a then (if v = Mem.erased then rest else (a, v) :: rest)
    else (if v = Mem.erased then c :: rest else (a, v) :: c :: rest)

/-- A byte string written from an address upward. -/
def Mem.writeBytes : List Host.Cell → Nat → Bytes → List Host.Cell
  | m, _, [] => m
  | m, a, b :: bs => Mem.writeBytes (Mem.write m a b) (a + 1) bs

/-- `n` bytes from an address upward. -/
def Mem.readBytes (m : List Host.Cell) : (n a : Nat) → Bytes
  | 0, _ => []
  | n + 1, a => Mem.read m a :: Mem.readBytes m n (a + 1)

/-- The entries of addresses lo .. hi-1. -/
def Mem.window (m : List Host.Cell) (lo hi : Nat) : List Host.Cell := m.filter fun c => lo ≤ c.1 && c.1 < hi

/-- The 256 bytes of a page. -/
def Mem.readPage (m : List Host.Cell) (page : Nat) : Bytes :=
  Mem.readBytes (Mem.window m (256 * page) (256 * page + 256)) 256 (256 * page)

/-- Every byte of a page reads 0xFF. -/
def Mem.pageErased (m : List Host.Cell) (page : Nat) : Bool :=
  (Mem.window m (256 * page) (256 * page + 256)).all fun c => c.2 == Mem.erased

/-- The addresses lo .. hi-1 set to 0xFF. -/
def Mem.clear (m : List Host.Cell) (lo hi : Nat) : List Host.Cell := m.filter fun c => !(lo ≤ c.1 && c.1 < hi)

/-- A page made to read the given bytes (brought to 256); a page number outside the array changes nothing. -/
def Mem.setPage (m : List Host.Cell) (page : Nat) (bytes : Bytes) : List Host.Cell :=
  if page < 640 then Mem.writeBytes m (256 * page) (fit 256 Mem.erased bytes) else m

/-- Bytes written at offsets of a block; offsets outside the block and blocks outside the array change nothing. -/
def Mem.setResidue (m : List Host.Cell) (block : Nat) : List (Nat × Byte) → List Host.Cell
  | [] => m
  | c :: rest =>
    let m' := if c.1 < 4096 ∧ block < 40 then Mem.write m (4096 * block + c.1) c.2 else m
    Mem.setResidue m' block rest

/-- An erase of a block, with what it leaves unerased (R53). -/
def Mem.eraseBlock (m : List Host.Cell) (block : Nat) (left : List (Nat × Byte)) : List Host.Cell :=
  Mem.setResidue (Mem.clear m (4096 * block) (4096 * block + 4096)) block left

/-- The readback of an erase shows every page of the block erased. -/
def Mem.blockErased (m : List Host.Cell) (block : Nat) : Bool :=
  (Mem.window m (4096 * block) (4096 * block + 4096)).all fun c => c.2 == Mem.erased

/-- Addresses strictly rising from `lo`, all below the array's size, no entry of the erased value. -/
def Mem.wfFrom : (lo : Nat) → List Host.Cell → Bool
  | _, [] => true
  | lo, c :: rest => lo ≤ c.1 && c.1 < Mem.size && c.2 != Mem.erased && Mem.wfFrom (c.1 + 1) rest

/-- The canonical form of the array. -/
def Memory.wf (m : List Host.Cell) : Bool := Mem.wfFrom 0 m

/-! ### Pages, blocks and the slot map (R54 to R59) -/

/-- The block of a page. -/
def blockOf (page : Nat) : Nat := page / 16

/-- The pages of a block in ascending order. -/
def pagesOf (block : Nat) : List Nat := (List.range 16).map fun i => 16 * block + i

/-- The state of a block. -/
def Store.block (st : Store) (b : Nat) : BlockState := st.blocks.getD b .retired

/-- A block's state set. -/
def Store.setBlock (st : Store) (b : Nat) (x : BlockState) : Store := { st with blocks := setAt st.blocks b x }

/-- The page is not ERASED. -/
def Store.isUsed (st : Store) (p : Nat) : Bool := st.used.contains p

/-- The page is LIVE: the slot map names it (R55). -/
def Store.isLive (st : Store) (p : Nat) : Bool := st.map.any fun e => e.page == p

/-- The page is STALE (R55). -/
def Store.isStale (st : Store) (p : Nat) : Bool := st.isUsed p && !st.isLive p

/-- The page becomes non-erased. -/
def Store.markUsed (st : Store) (p : Nat) : Store :=
  if st.isUsed p then st else { st with used := p :: st.used }

/-- Every page of a block becomes ERASED. -/
def Store.clearBlock (st : Store) (b : Nat) : Store := { st with used := st.used.filter fun p => blockOf p != b }

/-- The lowest-numbered block in a state. -/
def Store.firstBlock (st : Store) (x : BlockState) : Option Nat :=
  (List.range 40).find? fun b => st.block b == x

/-- The fill point of a block: its lowest ERASED page above every non-erased page (R55). -/
def Store.fillPoint (st : Store) (b : Nat) : Option Nat :=
  (pagesOf b).find? fun p => (pagesOf b).all fun q => q < p || !st.isUsed q

/-- The free pages (R56, section 4.2): ERASED pages of the OPEN block and all pages of FREE blocks. -/
def Store.freePages (st : Store) : Nat :=
  (List.range 40).foldl
    (fun n b =>
      match st.block b with
      | .openBlock => n + ((pagesOf b).filter fun p => !st.isUsed p).length
      | .free => n + 16
      | _ => n) 0

/-- The count of STALE pages of a block. -/
def Store.staleCount (st : Store) (b : Nat) : Nat := ((pagesOf b).filter st.isStale).length

/-- The victim of a compaction: the FILLED block with the most STALE pages, the lowest-numbered on a tie, none when no FILLED
block has a STALE page (R68). -/
def Store.victim (st : Store) : Option Nat :=
  (List.range 40).foldl
    (fun (best : Option Nat) b =>
      if st.block b = .filled ∧ 0 < st.staleCount b then
        match best with
        | none => some b
        | some v => if st.staleCount v < st.staleCount b then some b else some v
      else best) none

/-- The slot map entry of a slot (R59). -/
def Store.entry (st : Store) (slot : Nat) : Option SlotEntry := st.map.find? fun e => e.slot == slot

/-- The slot map with one entry set, by ascending slot. -/
def insertEntry (x : SlotEntry) : List SlotEntry → List SlotEntry
  | [] => [x]
  | e :: rest =>
    if e.slot < x.slot then e :: insertEntry x rest
    else if e.slot = x.slot then x :: rest
    else x :: e :: rest

/-- The current generation of a slot, 0 when never written (R59). -/
def Store.gen (st : Store) (slot : Nat) : Word :=
  match st.entry slot with
  | none => 0#32
  | some e => e.gen

/-- The record of a slot's LIVE page as the cells hold it at this moment (R59). -/
def Store.liveRec (st : Store) (slot : Nat) : Option Rec :=
  match st.entry slot with
  | none => none
  | some e => (parsePage (Mem.readPage st.mem e.page)).map (·.r)

/-- The record of a slot that is neither never written nor a tombstone. That a good EMPTY page with a payload is a tombstone by its
kind alone is the model's reading (log 44). -/
def Store.keptRec (st : Store) (slot : Nat) : Option Rec :=
  match st.liveRec slot with
  | none => none
  | some r => if r.kind = .empty then none else some r

/-- Some user slot holds a LIVE VERIFIER record (R114). -/
def Store.anyVerifier (st : Store) : Bool :=
  st.map.any fun e => 1 ≤ e.slot && e.slot ≤ 254 && (st.liveRec e.slot).any fun r => r.kind == .verifier

/-- The controller is READY (R54): no job taken, no operation, no compaction. -/
def Store.ready (st : Store) : Bool := st.taken.isNone && st.op.isNone && st.comp.isNone

/-- A slot id of a user slot (R58). -/
def userSlot (slot : Nat) : Bool := 1 ≤ slot && slot ≤ 254

/-- The slot guard lets a user slot be written by a channel request (R75). -/
def Guard.allows (g : Guard) (slot : Nat) : Bool :=
  if g.invert then slot < g.lower || g.upper < slot else g.lower ≤ slot && slot ≤ g.upper

/-! ### Channels, replies, events -/

/-- A channel's record replaced. -/
def State.setChan (s : State) (ch : Chan) (c : Channel) : State :=
  match ch with
  | .S => { s with chS := c }
  | .A => { s with chA := c }

/-- What the owning block holds for the channel's request. -/
def State.work (s : State) (ch : Chan) : Work := (s.chan ch).work

/-- The work of a channel's request moves to another stage. -/
def State.setWork (s : State) (ch : Chan) (w : Work) : State := s.setChan ch { s.chan ch with work := w }

/-- The owning block places its reply: the channel goes to REPLY_READY (R9). -/
def State.reply (s : State) (ch : Chan) (st : Status) (body : Bytes) : State :=
  s.setChan ch { s.chan ch with state := .replyReady, work := .none, reply := some { status := st, body := body } }

/-- A reply with an empty body. -/
def State.refuse (s : State) (ch : Chan) (st : Status) : State := s.reply ch st []

/-- A block raises an event toward a channel (R17). -/
def State.raise (s : State) (ch : Chan) (e : Event) : State := s.setChan ch ((s.chan ch).raise ch e)

/-- The body of the request that a channel handed over and that its block has not yet taken, when its code is the given one
and the channel is WORKING. -/
def State.request (s : State) (ch : Chan) (code : Byte) : Option Bytes :=
  match (s.chan ch).state, (s.chan ch).work with
  | .working, .handed c body => if c = code then some body else none
  | _, _ => none

/-- The claimant of a channel (R30). -/
def Chan.claimant : Chan → Claimant
  | .S => .S
  | .A => .A

/-- The part is in a boot phase (section 9.2). -/
def State.inBootPhase (s : State) : Bool := s.boot.state != .released

/-! ### Grant sets, owner grant, write rights (R15, R82, R110, R111) -/

/-- A domain is in a channel's grant set. -/
def State.granted (s : State) (ch : Chan) (d : Option Domain) : Bool :=
  match d with
  | none => false
  | some d => (s.chan ch).grants.getLsbD d.bit

/-- A judgment that needs the owner grant and finds it active sets its last-use time (R110). -/
def State.useGrant (s : State) : State :=
  match s.owner.grant with
  | none => s
  | some g => { s with owner := { s.owner with grant := some { g with lastUse := s.owner.uptime } } }

/-- Which channels the write-right table allows for a domain (R81). -/
def Domain.writableOn : Domain → Chan → Bool
  | .platform, _ => true
  | .update, ch => ch == .S
  | _, ch => ch == .A

/-- The domain needs the owner grant for a write (R81). -/
def Domain.needsGrant : Domain → Bool
  | .owner | .network | .client => true
  | _ => false

/-- The judgment of a write right over a domain (R81, R82): its answer, and the state with the owner grant's last use set when
the judgment needed the grant and passed. -/
def State.judgeWrite (s : State) (ch : Chan) (d : Option Domain) : Bool × State :=
  match d with
  | none => (false, s)
  | some dom =>
    if s.granted ch d && dom.writableOn ch then
      if dom.needsGrant then (if s.owner.grant.isSome then (true, s.useGrant) else (false, s))
      else (true, s)
    else (false, s)

/-- The judgment of SET VERIFIER over OWNER, with the first claim (R114). -/
def State.judgeVerifier (s : State) : Bool × State :=
  if s.granted .A (some .owner) then
    if s.owner.grant.isSome then (true, s.useGrant) else (!s.store.anyVerifier, s)
  else (false, s)

/-- 2^32 - 1: the top of the uptime clock, of the use counter and of a generation. -/
def topWord : Nat := 4294967295

/-! ### Context table (chapter 7) -/

/-- A LOADED entry goes FREE with its epoch raised by one; a FREE entry stays as it is (R120). -/
def CtxEntry.free (e : CtxEntry) : CtxEntry :=
  match e.ctx with
  | none => e
  | some _ => { epoch := e.epoch + 1#8, ctx := none }

/-- Every LOADED entry of which `p` holds goes FREE (R130). -/
def CtxTable.invalidate (t : CtxTable) (p : Ctx → Bool) : CtxTable :=
  { t with entries := t.entries.map fun e =>
      match e.ctx with
      | none => e
      | some c => if p c then e.free else e }

/-- The entry that a good handle names on a channel (R120). -/
def CtxTable.good (t : CtxTable) (ch : Chan) (h : Handle) : Option Ctx :=
  match t.entries[h.entry]? with
  | none => none
  | some e =>
    match e.ctx with
    | none => none
    | some c => if c.owner = ch ∧ e.epoch = h.epoch then some c else none

/-- The number of FREE entries. -/
def CtxTable.freeCount (t : CtxTable) : Nat := (t.entries.filter fun e => e.ctx.isNone).length

/-- The number of pinned entries. -/
def CtxTable.pinnedCount (t : CtxTable) : Nat := (t.entries.filter fun e => e.ctx.any (·.pinned)).length

/-- Replace one entry. -/
def CtxTable.setEntry (t : CtxTable) (i : Nat) (e : CtxEntry) : CtxTable := { t with entries := setAt t.entries i e }

/-- Renumber: the LOADED entries take the stamps 1..n in the order of their old stamps and the counter becomes n (R119). -/
def CtxTable.renumber (t : CtxTable) : CtxTable :=
  let stamps := t.entries.filterMap fun e => e.ctx.map (·.stamp)
  { entries := t.entries.map fun e =>
      match e.ctx with
      | none => e
      | some c => { e with ctx := some { c with stamp := (stamps.filter (· < c.stamp)).length + 1 } },
    counter := stamps.length }

/-- A table whose counter can be raised (R119). -/
def CtxTable.ready (t : CtxTable) : CtxTable := if topWord ≤ t.counter then t.renumber else t

/-- An entry takes a new stamp (R119). -/
def CtxTable.stamp (t : CtxTable) (i : Nat) : CtxTable :=
  let t := t.ready
  match t.entries[i]? with
  | none => t
  | some e =>
    match e.ctx with
    | none => t
    | some c =>
      { (t.setEntry i { e with ctx := some { c with stamp := t.counter + 1 } }) with counter := t.counter + 1 }

/-- The index of the unpinned LOADED entry with the smallest stamp (R123). -/
def CtxTable.evictee (t : CtxTable) : Option Nat :=
  ((List.range 12).foldl
    (fun (best : Option (Nat × Nat)) i =>
      match t.entries[i]? with
      | none => best
      | some e =>
        match e.ctx with
        | none => best
        | some c =>
          if c.pinned then best
          else match best with
            | none => some (i, c.stamp)
            | some b => if c.stamp < b.2 then some (i, c.stamp) else best) none).map (·.1)

/-- The entry a load uses, and whether a loaded entry is evicted for it (R123). -/
def CtxTable.choose (t : CtxTable) : Option (Nat × Bool) :=
  match (List.range 12).find? fun i => (t.entries[i]?).any fun e => e.ctx.isNone with
  | some i => some (i, false)
  | none => t.evictee.map fun i => (i, true)

/-- Load an entry with a slot's record (R123): the table and the handle. -/
def CtxTable.load (t : CtxTable) (i : Nat) (ch : Chan) (slot : Nat) (gen : Word) (r : Rec) : CtxTable × Handle :=
  let t := { t with entries := t.entries.modify i CtxEntry.free }
  let t := t.ready
  let ep := (t.entries[i]?).elim 0#8 (·.epoch)
  let c : Ctx :=
    { slot := slot, gen := gen, owner := ch, kind := r.kind, domain := r.domain, flags := r.flags,
      needsOwner := r.needsOwner, mask := r.mask, pinned := false, stamp := t.counter + 1, material := r.payload }
  ({ (t.setEntry i { epoch := ep, ctx := some c }) with counter := t.counter + 1 }, { entry := i, epoch := ep })

/-- The state with its context table invalidated by a condition. -/
def State.invalidate (s : State) (p : Ctx → Bool) : State := { s with ctx := s.ctx.invalidate p }

/-- The reply contents of a load (R123). -/
def openReply (h : Handle) (gen : Word) (r : Rec) (evicted : Bool) : Bytes :=
  [byte h.entry, h.epoch] ++ be 4 gen.toNat ++ [r.kind.code, r.flags, flagByte r.needsOwner, r.mask, flagByte evicted]

/-- Load an entry for a channel's OPEN KEY and reply (R123). At most 4 entries are pinned, so an entry is found; with none the
reply is NO_ROOM (never reached from a table of 12 entries with at most 4 pinned). -/
def State.loadContext (s : State) (ch : Chan) (slot : Nat) (gen : Word) (r : Rec) : State :=
  match s.ctx.choose with
  | none => s.refuse ch .noRoom
  | some (i, evicted) =>
    let (t, h) := s.ctx.load i ch slot gen r
    { s with ctx := t }.reply ch .ok (openReply h gen r evicted)

/-- A record whose key can be opened: kind and payload length (R121 check 3, R192). -/
def openable (r : Rec) : Bool :=
  match r.kind with
  | .signingKey => r.payload.length == 96
  | .linkKey => r.payload.length == 32
  | .secret => 1 ≤ r.payload.length && r.payload.length ≤ 64
  | _ => false

/-! ### The owner grant's end and the hold-off table (chapter 6) -/

/-- The owner grant ends (R111): the flag is cleared, entries that need it are invalidated, then OWNER_GRANT_ENDED is raised
toward channel A (dropped while A is CLOSED). A grant that is not active: nothing. -/
def State.endGrant (s : State) : State :=
  match s.owner.grant with
  | none => s
  | some _ =>
    let s := { s with owner := { s.owner with grant := none, idleDue := false } }
    (s.invalidate (·.needsOwner)).raise .A .ownerGrantEnded

/-- The hold-off of a failure count in seconds (R102). -/
def holdOff (p : Params) (f : Nat) : Nat :=
  if f ≤ p.F then 0
  else
    let k := f - p.F - 1
    if 17 ≤ k then p.C else min (p.B * 2 ^ k) p.C

/-- An uptime plus a hold-off, saturating (R102). -/
def addSat (a b : Nat) : Nat := min topWord (a + b)

/-- A verifier with a count is locked out (R104). -/
def lockedOut (p : Params) (count : Nat) : Bool := p.L != 0 && p.L ≤ count

/-- The hold-off entry of a slot. -/
def Owner.entry (o : Owner) (slot : Nat) : Option HoldEntry := o.table.find? fun e => e.slot == slot

/-- The table with an entry made or replaced, by ascending slot. -/
def insertHold (x : HoldEntry) : List HoldEntry → List HoldEntry
  | [] => [x]
  | e :: rest =>
    if e.slot < x.slot then e :: insertHold x rest
    else if e.slot = x.slot then x :: rest
    else x :: e :: rest

/-- An entry made or replaced. -/
def State.setHold (s : State) (x : HoldEntry) : State :=
  { s with owner := { s.owner with table := insertHold x s.owner.table } }

/-- The entry of a slot, or a cleared one where the slot has none. -/
def State.holdOf (s : State) (slot : Nat) : HoldEntry :=
  match s.owner.entry slot with
  | none => { slot := slot, count := 0, holdUntil := 0, lastEvent := 0 }
  | some e => e

/-- Decay of an entry at an uptime (R103). -/
def decayed (p : Params) (uptime : Nat) (e : HoldEntry) : HoldEntry :=
  if 0 < p.P ∧ lockedOut p e.count = false then
    let d := (uptime - e.lastEvent) / (p.P * 60)
    if 0 < d then { e with count := e.count - d, lastEvent := e.lastEvent + d * (p.P * 60) } else e
  else e

/-! ### Measurement block (chapter 8) -/

/-- A lane's value. -/
def Meas.lane (m : Meas) (n : Nat) : Bytes := m.lanes.getD n zeros32

/-- The lanes of a mask, in ascending order, one after another (R25). -/
def Meas.selected (m : Meas) (mask : Byte) : Bytes :=
  ((List.range 8).filter fun n => mask.getLsbD n).flatMap m.lane

/-- An extension is completed (R138): value, log entry and the notice to the context table together (R132). -/
def State.completeExtension (s : State) (lane : Nat) (value digest label : Bytes) (source : Source) : State :=
  let m := { s.meas with lanes := setAt s.meas.lanes lane value,
                         log := s.meas.log ++ [{ lane := lane, source := source, label := label, digest := digest }] }
  { s with meas := m }.invalidate fun c => c.mask.getLsbD lane

/-! ### Floors, counters, roots -/

/-- A counter's RAM value (R41). -/
def Ota.value (o : Ota) : Counter → Nat
  | .loader => o.loader
  | .system => o.system
  | .radio => o.radio
  | .ownerEpoch => o.epoch

/-- Some epoch is below the floor of its kind (R164). -/
def Ota.belowFloor (o : Ota) (e : Epochs) : Bool := e.loader < o.loader || e.system < o.system || e.radio < o.radio

/-- The count of present roots (R40). -/
def Ota.rootCount (o : Ota) : Nat := (o.roots.filter (·.present)).length

/-- A digest is that of a present root entry (R92). -/
def Ota.vouches (o : Ota) (digest : Bytes) : Bool := o.roots.any fun r => r.present && r.digest == digest

/-! ### Filing work with other blocks -/

/-- The pending claim of a claimant. -/
def Engine.claim (e : Engine) : Claimant → Option Pending
  | .S => e.claimS
  | .A => e.claimA
  | .F => e.claimF

/-- The pending claim of a claimant set or removed. -/
def Engine.setClaim (e : Engine) (c : Claimant) (x : Option Pending) : Engine :=
  match c with
  | .S => { e with claimS := x }
  | .A => { e with claimA := x }
  | .F => { e with claimF := x }

/-- A block files a claim under a claimant (R30). -/
def State.fileClaim (s : State) (who : Claimant) (c : Claim) : State :=
  { s with engine := s.engine.setClaim who (some { claim := c, dropped := false }) }

/-- A block asks for a place in the write FIFO for its job (R62). -/
def State.fileJob (s : State) (j : WriteJob) : State :=
  { s with store := { s.store with waiters := s.store.waiters ++ [.job j] } }

/-- A block files an OTA operation (R37). -/
def State.fileOta (s : State) (op : OtaOp) : State := { s with ota := { s.ota with queue := s.ota.queue ++ [op] } }

/-- A boot record change is asked for (R153). -/
def State.ask (s : State) (c : Change) : State :=
  { s with boot := { s.boot with changes := s.boot.changes ++ [{ change := c, live := true }] } }

end Sys2Proof.Machine
end

