-- ==== Sys2Proof/Machine/BootOps.lean ====
section
/-! DEFINITION. Operations of the boot controller and the image checker (chapters 9 and 10): bank choice, checks, boot record
changes, admissions and confirmations. -/
namespace Sys2Proof.Machine

/-! ### Small access -/

/-- Update the boot controller. -/
def State.mapBoot (s : State) (f : Boot → Boot) : State := { s with boot := f s.boot }

/-- Update the image checker. -/
def State.mapChecker (s : State) (f : Checker → Checker) : State := { s with checker := f s.checker }

/-- A bank's failure reason. -/
def Boot.reason (b : Boot) : Bank → BootReason
  | .b0 => b.reason0
  | .b1 => b.reason1

def Boot.setReason (b : Boot) (k : Bank) (r : BootReason) : Boot :=
  match k with
  | .b0 => { b with reason0 := r }
  | .b1 => { b with reason1 := r }

/-- A bank has been tried in this boot phase (section 9.3). -/
def Boot.tried (b : Boot) : Bank → Bool
  | .b0 => b.tried0
  | .b1 => b.tried1

def Boot.setTried (b : Boot) (k : Bank) : Boot :=
  match k with
  | .b0 => { b with tried0 := true }
  | .b1 => { b with tried1 := true }

/-- A bank's state as bank choice takes it: REJECTED for a bank whose exhausted-trial change did not commit (R156). -/
def Boot.bankState (b : Boot) (k : Bank) : BankState :=
  if b.assumed = some k then .rejected else (b.record.bank k).state

/-- The preferred bank as bank choice takes it (R156). -/
def Boot.preferred (b : Boot) : Bank :=
  match b.assumed with
  | some k => k.other
  | none => b.record.preferred

/-- A bank's base in the boot phase copy. -/
def PhaseCopy.base (p : PhaseCopy) : Bank → Nat
  | .b0 => p.base0
  | .b1 => p.base1

/-- The two banks' address ranges meet (R162). -/
def PhaseCopy.overlap (p : PhaseCopy) : Bool := p.base0 < p.base1 + p.size && p.base1 < p.base0 + p.size

/-! ### Bank choice (R156 to R159) -/

/-- Manifest copy, descriptor, chunk buffer and the other data of a check discarded; the checker IDLE (R166). -/
def Checker.discard (c : Checker) : Checker :=
  { c with work := .none, state := .idle, manifest := [], manDigest := none, anchor := none, segIndex := 0, descAddr := 0,
           descRem := 0, chunk := [], digest := none, extended := 0, startWait := false }

/-- A check of a bank begins in READING; its identification read starts once no leftover work remains (R162, R183). -/
def Checker.begin (c : Checker) (w : CheckWork) (b : Bank) : Checker :=
  { c.discard with work := w, state := .reading, bank := b, startWait := true }

/-- The boot check of a bank begins. -/
def State.startCheck (s : State) (b : Bank) (factory : Bool) : State :=
  (s.mapBoot fun bt => { bt.setTried b with stage := .checking b factory }).mapChecker (·.begin .boot b)

/-- The boot controller enters BOOT_FAILED (R158). -/
def State.enterFailed (s : State) : State :=
  (s.mapBoot fun bt => { bt with stage := .failed, state := .bootFailed }).raise .S .bootFailed

/-- Bank choice looks at the other bank after bank `b` has failed (R158, R159). -/
def State.nextBank (s : State) (b : Bank) (factory : Bool) : State :=
  if factory then
    match b with
    | .b0 => s.startCheck .b1 true
    | .b1 => s.enterFailed
  else if s.boot.bankState b.other = .admitted ∧ s.boot.tried b.other = false then s.startCheck b.other false
  else s.enterFailed

/-- The first bank to try (R157). -/
def State.firstTry (s : State) : State :=
  let p := s.boot.preferred
  let q := p.other
  match s.boot.bankState p, s.boot.bankState q with
  | .unknown, .unknown => s.startCheck .b0 true
  | .trial, _ =>
    if (s.boot.record.bank p).trials ≤ 2 then
      (s.mapBoot fun bt => { bt with stage := .incWait p }).ask (.trialInc p)
    else s.enterFailed
  | .admitted, _ => s.startCheck p false
  | .unknown, .admitted => s.startCheck q false
  | .rejected, .admitted => s.startCheck q false
  | .unknown, _ => s.enterFailed
  | .rejected, _ => s.enterFailed

/-- The boot controller enters VERIFYING and looks for an exhausted trial first (R156). -/
def State.bankChoice (s : State) : State :=
  let s := s.mapBoot fun bt => { bt with state := .verifying }
  let p := s.boot.record.preferred
  let r := s.boot.record.bank p
  if r.state = .trial ∧ 3 ≤ r.trials then
    (s.mapBoot fun bt => { bt with stage := .trialsWait p }).ask (.trialsOut p)
  else s.firstTry

/-- The notice that the count of present roots has changed (R40, R155). -/
def State.rootsChanged (s : State) : State :=
  if s.boot.stage = .waiting ∧ 0 < s.ota.rootCount ∧ s.ota.lifecycle ≠ .failed then s.bankChoice else s

/-- The boot check of the bank under check ends with a failure (R158). -/
def State.bootCheckFailed (s : State) (r : CheckReason) : State :=
  let b := s.checker.bank
  let factory := s.boot.stage == .checking b true
  let s := (s.mapChecker (·.discard)).mapBoot fun bt => bt.setReason b (.check r)
  let st := (s.boot.record.bank b).state
  if st = .trial ∨ st = .admitted then (s.mapBoot fun bt => { bt with stage := .rejectWait b }).ask (.reject b)
  else s.nextBank b factory

/-! ### Pass of a bank (R160) -/

/-- The boot record that a pass calls for. -/
def BootRec.afterPass (r : BootRec) (b : Bank) (factory : Bool) (e : Epochs) (digest : Bytes) : BootRec :=
  let x := r.bank b
  let x' : BankRec :=
    if factory then { state := .admitted, trials := 0, epochs := e, digest := digest }
    else { x with epochs := e, digest := digest }
  { r.setBank b x' with preferred := b }

/-- After the record of a pass: the factory floor advances, or the release. -/
def State.afterRecord (s : State) (b : Bank) (factory : Bool) : State :=
  if factory then
    let e := match s.boot.bootedPass with
      | some p => p.epochs
      | none => { loader := 0, system := 0, radio := 0 }
    (s.mapBoot fun bt => { bt with stage := .floors b }).fileOta (.advance .loader e.loader .factory)
  else s.mapBoot fun bt => { bt with stage := .releaseReady .normal (some b) }

/-- The image checker reports a pass (R160, R166). -/
def State.bootPassed (s : State) (b : Bank) (e : Epochs) (digest : Bytes) : State :=
  let factory := s.boot.stage == .checking b true
  let s := (s.mapChecker (·.discard)).mapBoot fun bt => { bt with bootedPass := some { epochs := e, digest := digest } }
  if s.boot.record.afterPass b factory e digest = s.boot.record then s.afterRecord b factory
  else (s.mapBoot fun bt => { bt with stage := .passWait b factory }).ask (.passed b factory e digest)

/-- A factory floor advance has ended (R160). -/
def State.factoryAdvanced (s : State) (out : AdvOut) : State :=
  let s := s.mapBoot fun bt => { bt with factory := bt.factory ++ [out] }
  match s.boot.stage, s.boot.bootedPass with
  | .floors b, some p =>
    match s.boot.factory.length with
    | 1 => s.fileOta (.advance .system p.epochs.system .factory)
    | 2 => s.fileOta (.advance .radio p.epochs.radio .factory)
    | _ => s.mapBoot fun bt => { bt with stage := .releaseReady .normal (some b) }
  | _, _ => s

/-! ### Admissions (R176 to R179) -/

/-- An admission ends (R179): FOWN is deasserted, the result stored, ADMISSION_DONE raised, the copy discarded. -/
def State.endAdmission (s : State) (st : AdmState) (reason : Option AdmReason) (res : Option AdmResult) : State :=
  (s.mapChecker fun c =>
    { c.discard with fown := false, adm := st, admReason := reason, result := res, claimed := false }).raise .A .admissionDone

/-- An admission ends FAILED with a reason. -/
def State.failAdmission (s : State) (r : AdmReason) : State := s.endAdmission .failed (some r) none

/-- The admission state of a check in progress follows the checker's step (R174). -/
def Checker.setStep (c : Checker) (st : CheckState) : Checker :=
  { c with state := st,
           adm := match c.work, st with
             | .admission, .reading => .reading
             | .admission, .checking => .checking
             | .admission, .hashing => .hashing
             | _, _ => c.adm }

/-- A check ends with a failure, in either mode (R158, R177). -/
def State.checkFailed (s : State) (r : CheckReason) : State :=
  match s.checker.work with
  | .boot => s.bootCheckFailed r
  | .admission => s.failAdmission (.check r)
  | .none => s

/-! ### Confirmation (R187 to R189) -/

/-- The reply of a confirmation that passed its first step (R189), and its end. -/
def State.finishConfirm (s : State) (storeStatus : Status) : State :=
  match s.boot.confirm with
  | none => s
  | some c =>
    let s := s.mapBoot fun bt => { bt with confirm := none }
    let st :=
      if storeStatus ≠ .ok then storeStatus
      else if c.outs.any (·.status == .otpFault) then .otpFault else .ok
    let r := s.boot.record
    if c.live then
      s.reply .A st
        (c.outs.flatMap (fun o => [byte o.value, o.status.code])
          ++ [(r.bank c.bank).state.code, (r.bank c.bank.other).state.code, r.preferred.code])
    else s

/-- The third step of a confirmation: the other bank judged (R189). -/
def State.judgeOther (s : State) (c : Confirm) : State :=
  let o := s.boot.record.bank c.bank.other
  if (o.state = .trial ∨ o.state = .admitted) ∧ s.ota.belowFloor o.epochs = true then s.ask (.confirmReject c.bank.other)
  else s.finishConfirm .ok

/-- A floor advance of a confirmation has ended (R188). -/
def State.confirmAdvanced (s : State) (out : AdvOut) : State :=
  match s.boot.confirm with
  | none => s
  | some c =>
    let c := { c with outs := c.outs ++ [out] }
    let s := s.mapBoot fun bt => { bt with confirm := some c }
    match c.outs.length with
    | 1 => s.fileOta (.advance .system c.epochs.system .confirm)
    | 2 => s.fileOta (.advance .radio c.epochs.radio .confirm)
    | _ => s.judgeOther c

/-! ### Boot record changes (R153) -/

/-- A bank REJECTED with trial count 0; when it was preferred and the other bank is ADMITTED, the other becomes preferred
(R156, R158). -/
def BootRec.rejectBank (r : BootRec) (b : Bank) : BootRec :=
  let r' := r.setBank b { r.bank b with state := .rejected, trials := 0 }
  if r.preferred = b ∧ (r.bank b.other).state = .admitted then { r' with preferred := b.other } else r'

/-- The record of a change, built from the RAM copy (R153). -/
def BootRec.apply (r : BootRec) : Change → BootRec
  | .trialsOut b => r.rejectBank b
  | .trialInc b => r.setBank b { r.bank b with trials := (r.bank b).trials + 1 }
  | .reject b => r.rejectBank b
  | .passed b factory e d => r.afterPass b factory e d
  | .select b => { r with preferred := b }
  | .claiming b =>
    r.setBank b { state := .unknown, trials := 0, epochs := { loader := 0, system := 0, radio := 0 }, digest := zeros32 }
  | .commitAdm b e d => { r.setBank b { state := .trial, trials := 0, epochs := e, digest := d } with preferred := b }
  | .confirmBank b e d => r.setBank b { state := .admitted, trials := 0, epochs := e, digest := d }
  | .confirmReject o =>
    let r' := r.setBank o { r.bank o with state := .rejected, trials := 0 }
    if r.preferred = o then { r' with preferred := o.other } else r'

/-- The writer of a change's job (R153). -/
def Change.writer : Change → Writer
  | .claiming _ | .commitAdm _ _ _ => .imageChecker
  | .trialsOut _ | .trialInc _ | .reject _ | .passed _ _ _ _ | .select _ | .confirmBank _ _ _ | .confirmReject _ =>
    .bootController

/-- The channel of a change's job: that of the request it serves, or none (R62, R153, R189). -/
def Change.chan : Change → Option Chan
  | .select _ | .claiming _ | .commitAdm _ _ _ | .confirmBank _ _ _ => some .A
  | .trialsOut _ | .trialInc _ | .reject _ | .passed _ _ _ _ | .confirmReject _ => none

/-- The asker of a boot record change learns its outcome: OK at the commit, else the store's status. -/
def State.changeEnded (s : State) (a : Asked) (st : Status) : State :=
  match a.change with
  | .trialsOut p =>
    (s.mapBoot fun bt =>
      { bt.setReason p .trials with assumed := if st = .ok then bt.assumed else some p }).firstTry
  | .trialInc p =>
    if st = .ok then s.startCheck p false
    else (s.mapBoot fun bt => (bt.setReason p .storeFault).setTried p).nextBank p false
  | .reject b => s.nextBank b false
  | .passed b factory _ _ => (s.mapBoot fun bt => { bt with passStatus := some st }).afterRecord b factory
  | .select _ => if a.live then s.refuse .A st else s
  | .claiming _ =>
    if a.live then
      if st = .ok then s.mapChecker fun c => { c with fown := true, claimed := true }
      else s.failAdmission .storeFault
    else s
  | .commitAdm _ e d =>
    if a.live then
      if st = .ok then
        s.endAdmission .passed none (some { epochs := e, digest := d, segs := manifestCount s.checker.manifest })
      else s.failAdmission .storeFault
    else s
  | .confirmBank _ e _ =>
    if st = .ok then s.fileOta (.advance .loader e.loader .confirm)
    else
      match s.boot.confirm with
      | none => s
      | some c =>
        let s := s.mapBoot fun bt => { bt with confirm := none }
        if c.live then s.refuse .A st else s
  | .confirmReject _ => s.finishConfirm st

/-! ### Steps of a check (R162 to R165) -/

/-- A flash read starts. -/
def State.startRead (s : State) (r : FlashRead) : State :=
  s.mapChecker fun c => { c with flash := some { read := r, dropped := false } }

/-- No leftover work of claimant F remains: no flash read, no pending or running F job (R183). -/
def State.noLeftover (s : State) : Bool :=
  s.checker.flash.isNone && s.engine.claimF.isNone && !(s.engine.running.any fun r => r.who == .F)

/-- The read of the next chunk of the segment (R165 step 1). -/
def State.readChunk (s : State) : State := s.startRead (.chunk (min 4096 s.checker.descRem))

/-- The hashing of the segment at the segment index begins (R165). -/
def State.startSegment (s : State) : State :=
  let c := s.checker
  let g := manifestSegment c.manifest c.segIndex
  (s.mapChecker fun c =>
    { c with descAddr := s.boot.phaseCopy.base c.bank + g.offset, descRem := g.length,
             digest := some DigestState.fresh }).readChunk

/-- The next extension of a passing bank (R142): entry 0 is the manifest, entry i + 1 is segment i. -/
def State.extendNext (s : State) : State :=
  let c := s.checker
  if c.extended = 0 then s.fileClaim .F (.extendPart 0 (c.manDigest.getD zeros32) (ascii "MANIFEST"))
  else
    let g := manifestSegment c.manifest (c.extended - 1)
    s.fileClaim .F (.extendPart g.lane g.digest (g.kind.elim [] SegKind.name))

/-- The last segment is confirmed: RECORDING in boot mode, COMMITTING in admission mode (R165, R177). -/
def State.allHashed (s : State) : State :=
  match s.checker.work with
  | .boot => (s.mapChecker fun c => { c with state := .recording }).extendNext
  | .admission =>
    let c := s.checker
    (s.mapChecker fun c => { c with adm := .committing }).ask
      (.commitAdm c.bank (manifestEpochs c.manifest) (c.manDigest.getD zeros32))
  | .none => s

end Sys2Proof.Machine
end

