-- ==== Sys2Proof/Machine/StoreOps.lean ====
section
/-! DEFINITION. The store controller (chapter 4): faults, the spare, taking and ending a job, finding a page, compaction,
the commit, the delivery of a job's outcome to its filer, and the start-up scan. -/
namespace Sys2Proof.Machine

/-- Update the store controller. -/
def State.mapStore (s : State) (f : Store → Store) : State := { s with store := f s.store }

/-! ### Background faults, the spare, retirement (R71 to R73) -/

/-- A background fault occurs (R73). -/
def State.recordFault (s : State) (k : FaultKind) (b : Option Nat) : State :=
  let f : FaultRec :=
    match s.store.fault with
    | none => { kind := k, block := b, uptime := s.owner.uptime, more := false }
    | some f => { f with more := true }
  ((s.mapStore fun st => { st with fault := some f }).raise .S .storeFault).raise .A .storeFault

/-- A spare is chosen: the lowest-numbered FREE block; with none the store becomes DEGRADED through the failure of block
`cause` (R69, R71, R72, log 23). -/
def State.chooseSpare (s : State) (cause : Nat) : State :=
  match s.store.firstBlock .free with
  | some b => s.mapStore (·.setBlock b .spare)
  | none => (s.mapStore fun st => { st with degraded := true }).recordFault .degraded (some cause)

/-- A block whose erase failed is retired; its mark is held until it can be filed (R71). -/
def State.retireBlock (s : State) (b : Nat) : State :=
  ((s.mapStore fun st => { st.setBlock b .retired with marksHeld := st.marksHeld ++ [b] }).recordFault
    .eraseFailed (some b)).chooseSpare b

/-- The OTA controller hands back the outcome of a retire mark (R71). -/
def State.retireEnded (s : State) (b : Nat) (ok : Bool) : State :=
  let s := s.mapStore fun st => { st with markOut := false }
  if ok then s else s.recordFault .retireMarkFailed (some b)

/-! ### The end of a job (R63 to R66) -/

/-- How a write job ends. -/
inductive JobEnd where
  | commit (gen : Word)
  | fail (st : Status)
  | withGen (st : Status) (gen : Word)
deriving DecidableEq, Repr

/-- The status of an outcome: OK at a commit. -/
def JobEnd.status : JobEnd → Status
  | .commit _ => .ok
  | .fail st => st
  | .withGen st _ => st

/-- The reply to a slot request from its job's outcome (R84); `extra` follows the new generation. -/
def State.replyJob (s : State) (ch : Chan) (o : JobEnd) (extra : Bytes) : State :=
  match o with
  | .commit g => s.reply ch .ok (be 4 g.toNat ++ extra)
  | .fail st => s.refuse ch st
  | .withGen st g => s.reply ch st (be 4 g.toNat)

/-! ### The walk of OWNER RESET (R118) -/

/-- A record that OWNER RESET tombstones. -/
def resetTarget (r : Rec) : Bool :=
  (r.kind == .verifier || r.kind == .secret || r.kind == .linkKey || r.kind == .signingKey)
    && (r.domain == some .owner || r.domain == some .network || r.domain == some .client)

/-- The next slot of the walk from a slot on. -/
def Store.resetNext (st : Store) (start : Nat) : Option Nat :=
  ((List.range 254).map (· + 1)).find? fun n => start ≤ n && (st.liveRec n).any resetTarget

/-- The reply of OWNER RESET: slots tombstoned, slots left, the owner epoch with its outcome (R118). -/
def State.resetReply (s : State) (st : Status) (done left : Nat) (out : Status) : State :=
  s.reply .S st [byte done, byte left, byte s.ota.epoch, out.code]

/-- The walk goes on from a slot (R118). -/
def State.resetWalkFrom (s : State) (start done left : Nat) (out : Status) : State :=
  match s.store.resetNext start with
  | some n =>
    (s.setWork .S (.resetWalk n done left out)).fileJob
      { slot := n, record := tombstone, expected := none, writer := .ownerReset, chan := some .S, filer := .ownerReset,
        orphan := false }
  | none => s.resetReply (if out = .otpFault then .otpFault else .ok) done left out

/-- A tombstone job of the walk has ended (R118). -/
def State.resetJobEnded (s : State) (o : JobEnd) : State :=
  match s.work .S with
  | .resetWalk n done left out =>
    match o with
    | .commit _ => s.resetWalkFrom (n + 1) (done + 1) left out
    | .fail .wrongState => s.resetWalkFrom (n + 1) done (left + 1) out
    | .fail st => s.resetReply st done left out
    | .withGen st _ => s.resetReply st done left out
  | _ => s

/-! ### Delivery of an outcome to the filer -/

/-- The commit of a job whose request is gone has changed a slot's hold-off entry: an attempt on the slot that waits with its
pre-charge is undone to the entry as it is now (R109). -/
def State.noteEntry (s : State) (slot : Nat) : State :=
  match s.work .A with
  | .verifyPrecharge n cand before =>
    s.setWork .A (.verifyPrecharge n cand (if n = slot then s.owner.entry slot else before))
  | _ => s

/-- The pre-charge of VERIFY OWNER has ended (R106, R109). -/
def State.prechargeEnded (s : State) (j : WriteJob) (o : JobEnd) : State :=
  match o with
  | .commit _ =>
    let p := verifierParams j.record.payload
    let c := verifierCount j.record.payload
    let s := s.setHold { slot := j.slot, count := c, holdUntil := addSat s.owner.uptime (holdOff p c),
                         lastEvent := s.owner.uptime }
    if j.orphan then s.noteEntry j.slot
    else if lockedOut p c then s.endGrant.reply .A .mismatch (be 4 0 ++ [byte c, 1#8])
    else
      match s.work .A with
      | .verifyPrecharge slot cand _ =>
        (s.setWork .A (.verifyStretch slot j.record)).fileClaim .A (.stretch (verifierSalt j.record.payload) cand)
      | _ => s
  | .fail st => if j.orphan then s else s.refuse .A st
  | .withGen st _ => if j.orphan then s else s.refuse .A st

/-- The match write of VERIFY OWNER has ended (R107, R109). -/
def State.matchEnded (s : State) (j : WriteJob) (o : JobEnd) : State :=
  match o with
  | .commit g =>
    let s := s.setHold { s.holdOf j.slot with count := 0 }
    if j.orphan then s.noteEntry j.slot else s.reply .A .ok (optBytes (some (be 4 g.toNat)) ++ 0#8 :: optBytes none)
  | .fail _ | .withGen _ _ =>
    if j.orphan then s
    else
      match s.work .A with
      | .verifyMatch c => s.reply .A .ok (optBytes none ++ byte c :: optBytes (some [o.status.code]))
      | _ => s

/-- The job of SET VERIFIER has ended (R115, R101). -/
def State.setVerifierEnded (s : State) (j : WriteJob) (o : JobEnd) : State :=
  let params := paramsBytes (verifierParams j.record.payload)
  match o with
  | .commit _ =>
    let s := s.setHold { slot := j.slot, count := 0, holdUntil := 0, lastEvent := s.owner.uptime }
    if j.orphan then s.noteEntry j.slot else s.replyJob .A o params
  | .fail _ | .withGen _ _ => if j.orphan then s else s.replyJob .A o params

/-- The job of the settings writer has ended (R22): on OK the RAM copy takes the record's value and the reply carries it. -/
def State.settingEnded (s : State) (num val : Nat) (o : JobEnd) : State :=
  match o with
  | .commit _ => { s with settings := s.settings.set num val }.reply .S .ok (byte num :: be 4 val)
  | .fail st => s.refuse .S st
  | .withGen st _ => s.refuse .S st

/-- The job of GENERATE KEY has ended (R85). -/
def State.generateEnded (s : State) (j : WriteJob) (o : JobEnd) : State :=
  match j.chan with
  | none => s
  | some ch =>
    match s.work ch with
    | .generateStore pub => s.replyJob ch o (optBytes pub)
    | _ => s

/-- The boot record job has ended (R153): at the commit the RAM copy takes the record that was written. -/
def State.bootJobEnded (s : State) (o : JobEnd) : State :=
  match s.boot.active with
  | none => s
  | some a =>
    let s := s.mapBoot fun bt =>
      { bt with active := none, record := if o.status = .ok then a.built.getD bt.record else bt.record }
    s.changeEnded a.asked o.status

/-- A job's outcome reaches its filer, which discards it when its request no longer exists (R79). -/
def State.deliver (s : State) (j : WriteJob) (o : JobEnd) : State :=
  match j.filer with
  | .settings num val => s.settingEnded num val o
  | .writeSlot | .deleteSlot =>
    if j.orphan then s
    else match j.chan with
      | none => s
      | some ch => s.replyJob ch o []
  | .generateKey => if j.orphan then s else s.generateEnded j o
  | .setVerifier => s.setVerifierEnded j o
  | .precharge => s.prechargeEnded j o
  | .matchWrite => s.matchEnded j o
  | .ownerReset => s.resetJobEnded o
  | .boot => s.bootJobEnded o

/-- The taken job ends. -/
def State.endJob (s : State) (o : JobEnd) : State :=
  match s.store.taken with
  | none => s
  | some t => (s.mapStore fun st => { st with taken := none }).deliver t.job o

/-! ### Taking a job (R63, R75, R84, R115) -/

/-- The four checks of R63. -/
def Store.takeCheck (st : Store) (g : Guard) (j : WriteJob) : Option JobEnd :=
  if st.degraded then some (.fail .storeFault)
  else if j.expected.any (· != st.gen j.slot) then some (.withGen .generationMismatch (st.gen j.slot))
  else if j.writer = .channelRequest ∧ userSlot j.slot = true ∧ g.allows j.slot = false then some (.fail .guarded)
  else if st.gen j.slot = 0xFFFFFFFF#32 then some (.fail .wrongState)
  else none

/-- The write right over the record a slot holds at the take; a never written slot and a tombstone pass. -/
def State.judgeOver (s : State) (ch : Chan) (slot : Nat) : Option JobEnd × State :=
  match s.store.keptRec slot with
  | none => (none, s)
  | some r =>
    let (ok, s) := s.judgeWrite ch r.domain
    (if ok then none else some (.fail .notPermitted), s)

/-- The judgments of R84 for WRITE SLOT and GENERATE KEY. -/
def State.judgeTakeWrite (s : State) (ch : Chan) (j : WriteJob) : Option JobEnd × State :=
  let (ok, s) := s.judgeWrite ch j.record.domain
  if ok then
    if (s.store.keptRec j.slot).any (·.kind == .verifier) then (some (.fail .slotKind), s) else s.judgeOver ch j.slot
  else (some (.fail .notPermitted), s)

/-- The overwrite check of R84 for DELETE SLOT. -/
def State.judgeTakeDelete (s : State) (ch : Chan) (j : WriteJob) : Option JobEnd × State :=
  match s.store.keptRec j.slot with
  | none => (some (.withGen .noSlot (s.store.gen j.slot)), s)
  | some r =>
    let (ok, s) := s.judgeWrite ch (if r.kind = .verifier then some .owner else r.domain)
    (if ok then none else some (.fail .notPermitted), s)

/-- The judgments of R115 for SET VERIFIER. -/
def State.judgeTakeVerifier (s : State) (j : WriteJob) : Option JobEnd × State :=
  let (ok, s) := s.judgeVerifier
  if ok then
    if (s.store.keptRec j.slot).any (·.kind == .verifier) then (none, s) else s.judgeOver .A j.slot
  else (some (.fail .notPermitted), s)

/-- The judgments made at the take after the checks of R63: the outcome when one fails, and the state with the owner grant's
last use. -/
def State.judgeTake (s : State) (j : WriteJob) : Option JobEnd × State :=
  match j.filer, j.chan with
  | .writeSlot, some ch => s.judgeTakeWrite ch j
  | .generateKey, some ch => s.judgeTakeWrite ch j
  | .deleteSlot, some ch => s.judgeTakeDelete ch j
  | .setVerifier, _ => s.judgeTakeVerifier j
  | _, _ => (none, s)

/-- The controller takes the oldest job (R63): WRITING, or the end of the job at a failed check. -/
def State.takeJob (s : State) (j : WriteJob) (rest : List WriteJob) : State :=
  let s := s.mapStore fun st => { st with fifo := rest, taken := some { job := j, attempts := 0 } }
  match s.store.takeCheck s.guard j with
  | some o => s.endJob o
  | none =>
    match s.judgeTake j with
    | (some o, s) => s.endJob o
    | (none, s) => s

/-! ### Compaction (R67 to R70) -/

/-- The compaction is abandoned: the target is FILLED with the copies it holds (R69). -/
def State.abandonCompaction (s : State) (c : Compaction) : State :=
  (s.mapStore fun st => { st.setBlock c.target .filled with comp := none, op := none }).chooseSpare c.target

/-- The compaction closes and the erase of the victim begins (R70). -/
def Store.closeCompaction (st : Store) (c : Compaction) : Store :=
  let st :=
    match st.firstBlock .openBlock with
    | none => st
    | some o => st.setBlock o .filled
  let st := st.setBlock c.target (if (st.fillPoint c.target).isSome then .openBlock else .filled)
  { st with op := some (.erase c.victim) }

/-- What the program of a copy intends: the record of the source page byte for byte, with its generation and check, followed by 0xFF
(R53, R69). -/
def copyImage (page : Bytes) : Bytes := fit 256 Mem.erased (recordOf page)

/-- The next step of a compaction: the next copy, the close, or the abandonment (R69, R70). -/
def State.copyNext (s : State) : State :=
  match s.store.comp with
  | none => s
  | some c =>
    match (pagesOf c.victim).find? s.store.isLive with
    | none => s.mapStore (·.closeCompaction c)
    | some p =>
      match s.store.fillPoint c.target with
      | some d => s.mapStore fun st => { st with op := some (.copy p d (copyImage (Mem.readPage st.mem p))) }
      | none => s.abandonCompaction c

/-- A compaction of a victim starts into the spare (R67, R69). -/
def State.startCompaction (s : State) (victim target : Nat) : State :=
  (s.mapStore fun st => { st with comp := some { victim := victim, target := target } }).copyNext

/-- The case of R67 in which a READY controller starts a compaction: victim and target. -/
def Store.compactionDue (st : Store) : Option (Nat × Nat) :=
  if st.ready && st.fifo.isEmpty && st.waiters.isEmpty && !st.degraded && st.freePages < 8 then
    match st.victim, st.firstBlock .spare with
    | some v, some t => some (v, t)
    | _, _ => none
  else none

/-! ### Finding a page and programming it (R64) -/

/-- The program of the taken job's record into a page starts. -/
def State.startProgram (s : State) (j : WriteJob) (page : Nat) : State :=
  s.mapStore fun st =>
    { st with op := some (.program page (recordPage j.slot (st.gen j.slot + 1#32) j.record)) }

/-- The page at the OPEN block's fill point. -/
def Store.openPage (st : Store) : Option Nat := (st.firstBlock .openBlock).bind st.fillPoint

/-- The controller finds a page for the taken job (R64). -/
def State.seekPage (s : State) (j : WriteJob) : State :=
  if s.store.degraded then s.endJob (.fail .storeFault)
  else
    match s.store.openPage, s.store.firstBlock .free with
    | some p, _ => s.startProgram j p
    | none, some b => (s.mapStore (·.setBlock b .openBlock)).startProgram j (16 * b)
    | none, none =>
      match s.store.victim, s.store.firstBlock .spare with
      | some v, some t => s.startCompaction v t
      | some _, none => s.endJob (.fail .storeFault)
      | none, _ => s.endJob (.fail .storeFull)

/-! ### The ends of array operations (R53, R65, R66, R69 to R71) -/

/-- A block that receives records and has no ERASED page left becomes FILLED (R65, R66). -/
def Store.fillIfFull (st : Store) (b : Nat) : Store :=
  if st.block b = .openBlock ∧ (st.fillPoint b).isNone = true then st.setBlock b .filled else st

/-- The notice of R96 to the owner verification unit: a tombstone over a VERIFIER removes the slot's entry (R101) and ends the
grant that the slot gave (R111). -/
def State.verifierGone (s : State) (slot : Nat) : State :=
  let s := { s with owner := { s.owner with table := s.owner.table.filter fun e => e.slot != slot } }
  if s.owner.grant.any (·.slot == slot) then s.endGrant else s

/-- The taken job commits into a page (R65): the page is LIVE, the slot map takes it, the context table is told, the owner
unit is told of a tombstone over a VERIFIER, and the outcome goes to the filer. -/
def State.commitJob (s : State) (j : WriteJob) (page : Nat) : State :=
  let g := s.store.gen j.slot + 1#32
  let wasVerifier := userSlot j.slot && (s.store.liveRec j.slot).any (·.kind == .verifier)
  let s := s.mapStore fun st =>
    { (st.markUsed page).fillIfFull (blockOf page) with
      map := insertEntry { slot := j.slot, page := page, gen := g } st.map }
  let s := s.invalidate (·.slot == j.slot)
  let s := if wasVerifier && j.record.kind == .empty then s.verifierGone j.slot else s
  s.endJob (.commit g)

/-- What a page reads after a program: what was intended, or the readback given. -/
def programmed (intended : Bytes) (bad : Option Bytes) : Bytes := fit 256 Mem.erased (bad.getD intended)

/-- The generation field of a page after a void: zero, or what the readback leaves (R53). -/
def voidGen (m : List Host.Cell) (page : Nat) (bad : Option Word) : List Host.Cell :=
  let old := Mem.readBytes m 4 (256 * page + 1)
  let kept := be 4 (bad.getD 0#32).toNat
  if page < 640 then Mem.writeBytes m (256 * page + 1) (List.zipWith (· &&& ·) old kept) else m

/-- A slot map with one page replaced by its copy (R69). -/
def movePage (src dst : Nat) (map : List SlotEntry) : List SlotEntry :=
  map.map fun e => if e.page = src then { e with page := dst } else e

/-- The page program of the taken job has been read back (R65, R66). -/
def State.programDone (s : State) (page : Nat) (bytes : Bytes) (bad : Option Bytes) : State :=
  match s.store.taken with
  | none => s
  | some t =>
    let actual := programmed bytes bad
    let s := s.mapStore fun st => { st with mem := Mem.setPage st.mem page actual, op := none }
    if actual = programmed bytes none then s.commitJob t.job page
    else s.mapStore fun st =>
      { st.markUsed page with taken := some { t with attempts := t.attempts + 1 }, op := some (.void page) }

/-- The void after a failed program has been read back (R66). -/
def State.voidDone (s : State) (page : Nat) (bad : Option Word) : State :=
  match s.store.taken with
  | none => s
  | some t =>
    let s := s.mapStore fun st => { st with mem := voidGen st.mem page bad, op := none }.fillIfFull (blockOf page)
    if 3 ≤ t.attempts then s.endJob (.fail .storeFault) else s

/-- The void after a failed copy has been read back (R69). -/
def State.copyVoidDone (s : State) (page : Nat) (bad : Option Word) : State :=
  (s.mapStore fun st => { st with mem := voidGen st.mem page bad, op := none }).copyNext

/-- A copy has been read back (R69). -/
def State.copyDone (s : State) (src dst : Nat) (bytes : Bytes) (bad : Option Bytes) : State :=
  let actual := programmed bytes bad
  let s := s.mapStore fun st => { st.markUsed dst with mem := Mem.setPage st.mem dst actual, op := none }
  if actual = programmed bytes none then (s.mapStore fun st => { st with map := movePage src dst st.map }).copyNext
  else s.mapStore fun st => { st with op := some (.copyVoid dst) }

/-- An erase of a victim or a recovery erase has been read back (R70, R71, R61). -/
def State.eraseDone (s : State) (b : Nat) (left : List (Nat × Byte)) : State :=
  let s := s.mapStore fun st => { st with mem := Mem.eraseBlock st.mem b left, op := none, comp := none }
  if Mem.blockErased s.store.mem b then s.mapStore fun st => (st.clearBlock b).setBlock b .spare
  else s.retireBlock b

/-! ### The start-up scan (R60, R61) -/

/-- A good page with its place. -/
structure PlacedPage where
  page : Nat
  good : GoodPage
deriving DecidableEq, Repr

/-- The first of two good pages of one slot is the LIVE one: the higher generation; on a tie the lower block; in one block the
higher page (R60). -/
def PlacedPage.beats (a b : PlacedPage) : Bool :=
  b.good.gen.toNat < a.good.gen.toNat
    || (a.good.gen == b.good.gen && (blockOf a.page < blockOf b.page
      || (blockOf a.page == blockOf b.page && b.page < a.page)))

/-- The LIVE page of a slot among good pages. -/
def bestPage (l : List PlacedPage) (slot : Nat) : Option PlacedPage :=
  l.foldl
    (fun (best : Option PlacedPage) p =>
      if p.good.slot = slot then
        match best with
        | none => some p
        | some b => if p.beats b then some p else some b
      else best) none

/-- The pages of a block judged by R60: those that are not ERASED. -/
def usedPages (mem : List Host.Cell) (blocks : List Nat) : List Nat :=
  (blocks.flatMap pagesOf).filter fun p => !Mem.pageErased mem p

/-- The good pages among given pages (R60). -/
def goodPages (mem : List Host.Cell) (pages : List Nat) : List PlacedPage :=
  pages.filterMap fun p => (parsePage (Mem.readPage mem p)).map fun g => { page := p, good := g }

/-- The slot map of the scan (R60). -/
def scanMap (goods : List PlacedPage) : List SlotEntry :=
  (List.range 256).filterMap fun slot =>
    (bestPage goods slot).map fun p => { slot := slot, page := p.page, gen := p.good.gen }

/-- A candidate for OPEN (R61 step 3). -/
def Store.candidate (st : Store) (b : Nat) : Bool :=
  (pagesOf b).any st.isUsed && !st.isUsed (16 * b + 15)
    && (pagesOf b).all fun p => (pagesOf b).all fun q => !(p < q && !st.isUsed p && st.isUsed q)

/-- A slot map entry of a block has a duplicate elsewhere: the good page of its slot and generation outside the block that
the tie rule of R60 chooses (R61 step 4). -/
def duplicateOf (goods : List PlacedPage) (b : Nat) (e : SlotEntry) : Option PlacedPage :=
  bestPage (goods.filter fun p => blockOf p.page != b && p.good.gen == e.gen) e.slot

/-- A redundant block (R61 step 4). -/
def Store.redundant (st : Store) (goods : List PlacedPage) (b : Nat) : Bool :=
  st.map.all fun e => blockOf e.page != b || (duplicateOf goods b e).isSome

/-- The highest generation of any good page of a block, 0 with none (R61 step 5, log 40). -/
def topGen (goods : List PlacedPage) (b : Nat) : Nat :=
  goods.foldl (fun m p => if blockOf p.page = b then max m p.good.gen.toNat else m) 0

/-- The OPEN block among candidates: the highest generation, the lower number on a tie (R61 step 5). -/
def openOf (goods : List PlacedPage) (l : List Nat) : Option Nat :=
  l.foldl
    (fun (best : Option Nat) b =>
      match best with
      | none => some b
      | some x => if topGen goods x < topGen goods b then some b else some x) none

/-- The recovery erase of a block begins: the slot map entries that name its pages move to their duplicates (R61, log 24). -/
def Store.startRecovery (st : Store) (goods : List PlacedPage) (b : Nat) : Store :=
  { st with
    op := some (.recoveryErase b),
    map := st.map.map fun e =>
      if blockOf e.page = b then
        match duplicateOf goods b e with
        | none => e
        | some p => { e with page := p.page }
      else e }

/-- The spare and the FREE blocks after the scan; DEGRADED with its fault when there is neither a FREE nor a redundant block
(R61 step 6, R72). -/
def Store.scanSpare (st : Store) (red : Option Nat) : Store :=
  match st.firstBlock .free, red with
  | some b, _ => st.setBlock b .spare
  | none, some _ => st
  | none, none =>
    { st with degraded := true, fault := some { kind := .degraded, block := none, uptime := 0, more := false } }

/-- What the start-up scan finds: the store, the good pages, and the block set aside for a recovery erase (R60, R61). -/
structure Scan where
  store : Store
  goods : List PlacedPage
  aside : Option Nat
deriving DecidableEq, Repr

/-- The state of a block after the scan, before a spare is chosen (R61 steps 1 to 5). -/
def scanBlock (retired : BitVec 40) (free : List Nat) (opened : Option Nat) (b : Nat) : BlockState :=
  if !retired.getLsbD b then .retired
  else if free.contains b then .free
  else if opened = some b then .openBlock
  else .filled

/-- The start-up scan over the array and the retired map (R60, R61). -/
def scanStore (mem : List Host.Cell) (retired : BitVec 40) : Scan :=
  let alive := (List.range 40).filter fun b => retired.getLsbD b
  let used := usedPages mem alive
  let goods := goodPages mem used
  let st := { Store.reset mem with used := used, map := scanMap goods }
  let free := alive.filter fun b => !(pagesOf b).any st.isUsed
  let red := if free.isEmpty then alive.find? fun b => st.redundant goods b else none
  let opened := openOf goods (alive.filter fun b => st.candidate b && red != some b)
  let st := { st with blocks := (List.range 40).map (scanBlock retired free opened) }.scanSpare red
  { store := st, goods := goods, aside := red }

/-- The store controller's first work after the start-up load: the recovery erase of the block set aside (R61, log 24). -/
def Scan.recover (x : Scan) : Store :=
  match x.aside with
  | none => x.store
  | some b => x.store.startRecovery x.goods b

end Sys2Proof.Machine
end

