-- ==== Sys2Proof/Machine/OtaOps.lean ====
section
/-! DEFINITION. The OTA controller (chapter 3): judging the pages, the lifecycle, programming a byte or a single cell, taking
an operation and handing its outcome to its filer. -/
namespace Sys2Proof.Machine

/-- Update the OTA controller. -/
def State.mapOta (s : State) (f : Ota → Ota) : State := { s with ota := f s.ota }

/-! ### Reading the pages (R38 to R41, R44) -/

/-- The four identity copies. -/
def Cells.copies (c : Cells) : List Bytes := (List.range 4).map fun i => slice c.page0 (64 * i) 64

/-- The identity of the unit: the lowest-numbered good copy (R38). -/
def Cells.identity (c : Cells) : Option Bytes := c.copies.find? goodIdentity

/-- The keys-present marker is present when any of its bits reads 0 (R39). -/
def Cells.markerPresent (c : Cells) : Bool := c.keysMarker != 0xFF#8

/-- The seed check: every seed byte XOR its complement byte is 0xFF (R39). -/
def Cells.seedCheck (c : Cells) : Bool := c.seedCompl == complBytes c.seed

/-- The device keys exist (R39). -/
def Cells.keysExist (c : Cells) : Bool := c.markerPresent && c.seedCheck

/-- Page 1 is spoiled (R39). -/
def Cells.spoiled (c : Cells) : Bool := !c.markerPresent && (c.seed ++ c.seedCompl).any (· != 0xFF#8)

/-- A page's lock bit is set (R36). -/
def Cells.locked (c : Cells) (page : Nat) : Bool := c.locks.getLsbD page

/-- The lifecycle (R44). -/
def Cells.lifecycle (c : Cells) : Lifecycle :=
  if c.markerPresent && !c.seedCheck then .failed
  else if c.locked 0 then
    if c.identity.isNone then .failed
    else if !c.locked 1 || !c.locked 2 then .failed
    else .sealed
  else if c.identity.isSome then .personalized
  else .blank

/-- The run of cleared bits from bit `i`, over at most `fuel` bits. -/
def clearedRun {w : Nat} (v : BitVec w) : (fuel i : Nat) → Nat
  | 0, i => i
  | fuel + 1, i => if v.getLsbD i then i else clearedRun v fuel (i + 1)

/-- A counter's value (R41). -/
def counterValue {w : Nat} (v : BitVec w) : Nat := clearedRun v w 0

/-- The RAM copies of pages 0, 1 and 2 and the lifecycle, judged from the cells (R38 to R40, R44). -/
def Ota.judge (o : Ota) : Ota :=
  { o with identity := o.cells.identity, keysExist := o.cells.keysExist,
           roots := o.cells.roots.map fun r => { present := r.marker != 0xFF#8, digest := r.digest },
           lifecycle := o.cells.lifecycle }

/-- Step 1 of the start-up load (R50). -/
def Ota.load (o : Ota) : Ota :=
  { o.judge with loader := counterValue o.cells.loader, system := counterValue o.cells.system,
                 radio := counterValue o.cells.radio, epoch := counterValue o.cells.ownerEpoch }

/-! ### Programming a cell and a byte (R35) -/

/-- A byte after it is programmed with an intended value; `stuck` marks the cells that did not clear. -/
def progByte (old intended stuck : Byte) : Byte := old &&& (intended ||| stuck)

/-- A cell cleared, unless it did not clear. -/
def clearBit {w : Nat} (v : BitVec w) (i : Nat) (ok : Bool) : BitVec w := if ok then v &&& ~~~(1#w <<< i) else v

/-- A byte of the root entry's digest or marker programmed. -/
def RootCells.prog (r : RootCells) (pos : Nat) (intended stuck : Byte) : RootCells :=
  if pos < 32 then { r with digest := setAt r.digest pos (progByte (byteAt r.digest pos) intended stuck) }
  else { r with marker := progByte r.marker intended stuck }

/-- The byte an operation programs at a position: its page, its intended value; none at the operation's end. -/
def OtaOp.byteAt (op : OtaOp) (pos : Nat) : Option Byte :=
  match op with
  | .identity copy => if pos < 256 then some (Machine.byteAt copy (pos % 64)) else none
  | .keys seed => if pos < 65 then some (Machine.byteAt (seed ++ complBytes seed) pos) else none
  | .root _ d => if pos < 32 then some (Machine.byteAt d pos) else if pos = 32 then some 0#8 else none
  | .seal | .advance _ _ _ | .retire _ => none

/-- The byte of the array that an operation addresses at a position. -/
def Cells.target (c : Cells) (op : OtaOp) (pos : Nat) : Byte :=
  match op with
  | .identity _ => Machine.byteAt c.page0 pos
  | .keys _ =>
    if pos < 32 then Machine.byteAt c.seed pos
    else if pos < 64 then Machine.byteAt c.seedCompl (pos - 32) else c.keysMarker
  | .root e _ =>
    match c.roots[e]? with
    | none => 0xFF#8
    | some r => if pos < 32 then Machine.byteAt r.digest pos else r.marker
  | .seal | .advance _ _ _ | .retire _ => 0xFF#8

/-- The cells after that byte is programmed. -/
def Cells.prog (c : Cells) (op : OtaOp) (pos : Nat) (intended stuck : Byte) : Cells :=
  match op with
  | .identity _ => { c with page0 := setAt c.page0 pos (progByte (Machine.byteAt c.page0 pos) intended stuck) }
  | .keys _ =>
    if pos < 32 then { c with seed := setAt c.seed pos (progByte (Machine.byteAt c.seed pos) intended stuck) }
    else if pos < 64 then
      { c with seedCompl := setAt c.seedCompl (pos - 32) (progByte (Machine.byteAt c.seedCompl (pos - 32)) intended stuck) }
    else { c with keysMarker := progByte c.keysMarker intended stuck }
  | .root e _ => { c with roots := c.roots.modify e fun r => r.prog pos intended stuck }
  | .seal | .advance _ _ _ | .retire _ => c

/-- A counter bit programmed. -/
def Cells.clearCounter (c : Cells) (k : Counter) (i : Nat) (ok : Bool) : Cells :=
  match k with
  | .loader => { c with loader := clearBit c.loader i ok }
  | .system => { c with system := clearBit c.system i ok }
  | .radio => { c with radio := clearBit c.radio i ok }
  | .ownerEpoch => { c with ownerEpoch := clearBit c.ownerEpoch i ok }

/-- A counter bit still reads 1. -/
def Cells.counterBit (c : Cells) (k : Counter) (i : Nat) : Bool :=
  match k with
  | .loader => c.loader.getLsbD i
  | .system => c.system.getLsbD i
  | .radio => c.radio.getLsbD i
  | .ownerEpoch => c.ownerEpoch.getLsbD i

/-- The top of a counter (R42). -/
def Counter.top : Counter → Nat
  | .loader | .system | .radio => 255
  | .ownerEpoch => 64

/-- A counter's RAM value set. -/
def Ota.setValue (o : Ota) (k : Counter) (v : Nat) : Ota :=
  match k with
  | .loader => { o with loader := v }
  | .system => { o with system := v }
  | .radio => { o with radio := v }
  | .ownerEpoch => { o with epoch := v }

/-! ### Outcomes (R42, R43, R45 to R49) -/

/-- The bytes of a lifecycle in a reply. -/
def State.lifeByte (s : State) : Byte := s.ota.lifecycle.code

/-- After a provisioning operation: the pages are read again, and the boot controller is told when the count of present roots
has changed (R40, R45). -/
def State.rejudge (s : State) : State :=
  let n := s.ota.rootCount
  let s := s.mapOta (·.judge)
  if s.ota.rootCount = n then s else s.rootsChanged

/-- WRITE IDENTITY's operation ended after `pos` good bytes (R46). -/
def State.identityEnded (s : State) (pos : Nat) : State :=
  let s := s.rejudge
  s.reply .S (if 256 ≤ pos then .ok else .otpFault) [byte (pos / 64), s.lifeByte]

/-- GENERATE DEVICE KEYS' operation ended after `pos` good bytes (R47): the attestation key is claimed when the keys exist. -/
def State.keysEnded (s : State) (seed : Bytes) (pos : Nat) : State :=
  let s := s.rejudge
  if s.ota.keysExist then
    (s.setWork .S (.keysAttest (if 65 ≤ pos then .ok else .otpFault))).fileClaim .S (.keygen (.attestation seed))
  else s.reply .S .otpFault (byte (if pos < 64 then 1 else 2) :: optBytes none ++ [s.lifeByte])

/-- INSTALL ROOT's operation ended after `pos` good bytes (R48). -/
def State.rootEnded (s : State) (entry : Nat) (digest : Bytes) (pos : Nat) : State :=
  let s := s.rejudge
  if 33 ≤ pos then s.reply .S .ok (byte entry :: digest ++ [s.lifeByte])
  else s.reply .S .otpFault [byte entry, byte (if pos < 32 then 1 else 2), s.lifeByte]

/-- SEAL's operation ended: every lock set, or a page's lock failed (R49). -/
def State.sealEnded (s : State) (bad : Option Nat) : State :=
  let s := s.rejudge
  match bad with
  | none => s.reply .S .ok [s.lifeByte]
  | some page => s.reply .S .otpFault [byte page, s.lifeByte]

/-- A counter advance has ended (R42): its outcome reaches its filer. -/
def State.advanceEnded (s : State) (k : Counter) (filer : AdvanceFor) (st : Status) : State :=
  let out : AdvOut := { status := st, value := s.ota.value k }
  match filer with
  | .factory => s.factoryAdvanced out
  | .confirm => s.confirmAdvanced out
  | .ownerReset =>
    match s.work .S with
    | .resetEpoch => s.resetWalkFrom 1 0 0 st
    | _ => s

/-- An operation that programs bytes ended after `pos` good bytes. -/
def State.bytesEnded (s : State) (op : OtaOp) (pos : Nat) : State :=
  let s := s.mapOta fun o => { o with current := none }
  match op with
  | .identity _ => s.identityEnded pos
  | .keys seed => s.keysEnded seed pos
  | .root e d => s.rootEnded e d pos
  | .seal | .advance _ _ _ | .retire _ => s

/-! ### Steps of an operation -/

/-- The position of SEAL's next lock bit that does not read set: position 0, 1, 2 for pages 2, 1, 0 (R49). -/
def Cells.nextLock (c : Cells) (pos : Nat) : Option Nat :=
  [0, 1, 2].find? fun p => pos ≤ p && !c.locked (2 - p)

/-- An operation stands at a position. -/
def State.otaAt (s : State) (op : OtaOp) (pos : Nat) : State :=
  s.mapOta fun o => { o with current := some { op := op, pos := pos } }

/-- The page an operation programs (section 3.1). -/
def OtaOp.page : OtaOp → Nat
  | .identity _ => 0
  | .keys _ => 1
  | .root _ _ => 2
  | .seal => 0
  | .advance _ _ _ => 3
  | .retire _ => 4

/-- The controller takes an operation (R36, R37, R42): an operation that has nothing to program or whose page is locked ends
at once. -/
def State.takeOta (s : State) (op : OtaOp) : State :=
  match op with
  | .identity _ | .keys _ | .root _ _ => if s.ota.cells.locked op.page then s.bytesEnded op 0 else s.otaAt op 0
  | .seal =>
    match s.ota.cells.nextLock 0 with
    | none => s.sealEnded none
    | some p => s.otaAt op p
  | .advance k target filer =>
    if min target k.top ≤ s.ota.value k then s.advanceEnded k filer .ok
    else if s.ota.cells.locked op.page then s.advanceEnded k filer .otpFault
    else s.otaAt op (s.ota.value k)
  | .retire b => if s.ota.cells.locked op.page then s.retireEnded b false else s.otaAt op 0

/-- A byte of the operation in progress has been programmed and read back (R35). -/
def State.byteProgrammed (s : State) (op : OtaOp) (pos : Nat) (stuck : Byte) : State :=
  match op.byteAt pos with
  | none => s
  | some v =>
    let s := s.mapOta fun o => { o with cells := o.cells.prog op pos v stuck }
    if s.ota.cells.target op pos = v then
      if (op.byteAt (pos + 1)).isSome then s.otaAt op (pos + 1) else s.bytesEnded op (pos + 1)
    else s.bytesEnded op pos

/-- A counter bit has been programmed and read back (R42). -/
def State.counterProgrammed (s : State) (k : Counter) (target : Nat) (filer : AdvanceFor) (pos : Nat) (ok : Bool) : State :=
  let s := s.mapOta fun o => { o with cells := o.cells.clearCounter k pos ok }
  let free := fun (s : State) => s.mapOta fun o => { o with current := none }
  if s.ota.cells.counterBit k pos then (free s).advanceEnded k filer .otpFault
  else
    let s := s.mapOta (·.setValue k (pos + 1))
    if pos + 1 < min target k.top then s.otaAt (.advance k target filer) (pos + 1)
    else (free s).advanceEnded k filer .ok

/-- A lock bit has been programmed and read back (R49); position `pos` is that of page 2 - pos. -/
def State.lockProgrammed (s : State) (pos : Nat) (ok : Bool) : State :=
  let s := s.mapOta fun o =>
    { o with cells := { o.cells with locks := if ok then o.cells.locks ||| (1#5 <<< (2 - pos)) else o.cells.locks } }
  let free := fun (s : State) => s.mapOta fun o => { o with current := none }
  if s.ota.cells.locked (2 - pos) then
    match s.ota.cells.nextLock (pos + 1) with
    | none => (free s).sealEnded none
    | some p => s.otaAt .seal p
  else (free s).sealEnded (some (2 - pos))

/-- A retired-map bit has been programmed and read back (R43). -/
def State.retireProgrammed (s : State) (b : Nat) (ok : Bool) : State :=
  let s := s.mapOta fun o => { o with cells := { o.cells with retired := clearBit o.cells.retired b ok }, current := none }
  s.retireEnded b (!s.ota.cells.retired.getLsbD b)

end Sys2Proof.Machine
end

