-- ==== Sys2Proof/Machine/EngineOps.lean ====
section
/-! DEFINITION. The crypto engine and its arbiter (chapter 2): what a job takes at its grant, the checks made there, and what
each filing block does with a result. -/
namespace Sys2Proof.Machine

/-- Update the engine. -/
def State.mapEngine (s : State) (f : Engine → Engine) : State := { s with engine := f s.engine }

/-- The channel a claimant of a channel works for. -/
def Claimant.chan : Claimant → Chan
  | .S => .S
  | .A => .A
  | .F => .A

/-! ### The grant (R31, R32) -/

/-- The bits of the use flags (R191). -/
def useSign : Nat := 0
def useDerive : Nat := 1
def useRelease : Nat := 2
def useAnchor : Nat := 3

/-- The checks of R128 at the grant of a use request: the status of the first that fails, or the entry's fields as used. -/
def CtxTable.judgeUse (t : CtxTable) (ch : Chan) (h : Handle) (kind : Kind) (bit : Nat) : Status ⊕ Ctx :=
  match t.good ch h with
  | none => .inl .staleHandle
  | some c =>
    if c.kind = kind then if c.flags.getLsbD bit then .inr c else .inl .notPermitted
    else .inl .slotKind

/-- A use that passed: the owner grant is refreshed when the entry needs it, and the entry takes a new stamp (R128). -/
def State.noteUse (s : State) (h : Handle) (c : Ctx) : State :=
  let s := if c.needsOwner then s.useGrant else s
  { s with ctx := s.ctx.stamp h.entry }

/-- The statement of a quote (R148, R193). -/
def State.statement (s : State) (nonce : Bytes) (mask : Byte) : Bytes :=
  1#8 :: slice (s.ota.identity.getD []) 10 16
    ++ [s.ota.lifecycle.code, byte s.ota.epoch, byte s.ota.loader, byte s.ota.system, byte s.ota.radio, s.boot.mode.code,
        bankCode s.boot.booted, byte s.meas.log.length, mask]
    ++ s.meas.selected mask ++ byte nonce.length :: nonce ++ be 4 s.owner.uptime

/-- The refusal of an EXTEND at its grant (R141). -/
def State.extendRefusal (s : State) (ch : Chan) : Option Status :=
  match ch with
  | .S => if !s.meas.bootOpen then some .wrongState else if 30 ≤ s.meas.log.length then some .logFull else none
  | .A => if 48 ≤ s.meas.log.length then some .logFull else none

/-- The source of a channel's extension (R137). -/
def Chan.source : Chan → Source
  | .S => .supervisor
  | .A => .application

/-- A FINISH_DIGEST job over one string from a fresh state (R24). -/
def digestJob (p : DigestFor) (bytes : Bytes) : Job := .finishDigest p DigestState.fresh bytes

/-- What the filing block gathers at the grant of its claim (R32): the job with its inputs, or none when the claim ends without
a job, and the state after. -/
def State.gather (s : State) (ch : Chan) (c : Claim) : Option Job × State :=
  match c with
  | .hashChunk => (some (.hashChunk (s.checker.digest.getD DigestState.fresh) s.checker.chunk), s)
  | .digestManifest => (some (digestJob .manifest (manifestSigned s.checker.manifest)), s)
  | .digestAnchor => (some (digestJob .anchor (s.checker.anchor.getD [])), s)
  | .digestSegment => (some (.finishDigest .segment (s.checker.digest.getD DigestState.fresh) []), s)
  | .verifySig =>
    (some (.verifySig (s.checker.anchor.getD []) (s.checker.manDigest.getD zeros32) (manifestSignature s.checker.manifest)), s)
  | .extendPart lane d l => (some (.extend lane (s.meas.lane lane) d l .part), s)
  | .digestRoot key => (some (digestJob .root key), s)
  | .digestComposite slot gen r => (some (digestJob (.composite slot gen r false) (s.meas.selected r.mask)), s)
  | .digestQuote nonce mask =>
    let st := s.statement nonce mask
    (some (digestJob (.quote st) st), s)
  | .signQuote d => (some (.sign (s.engine.attest.elim zeros32 (·.scalar)) d), s)
  | .signCtx h d =>
    match s.ctx.judgeUse ch h .signingKey useSign with
    | .inl st => (none, s.refuse ch st)
    | .inr e => (some (.sign (e.material.take 32) d), s.noteUse h e)
  | .deriveCtx h info =>
    match s.ctx.judgeUse ch h .linkKey useDerive with
    | .inl st => (none, s.refuse ch st)
    | .inr e => (some (.derive e.material info), s.noteUse h e)
  | .releaseCtx h =>
    match s.ctx.judgeUse ch h .secret useRelease with
    | .inl st => (none, s.refuse ch st)
    | .inr e => (none, (s.noteUse h e).reply ch .ok (byte e.material.length :: e.material))
  | .extendReq lane d l =>
    match s.extendRefusal ch with
    | some st => (none, s.refuse ch st)
    | none => (some (.extend lane (s.meas.lane lane) d l (Chan.source ch)), s)
  | .extendRecovery =>
    (some (.extend 0 (s.meas.lane 0) (digestOf (ascii "RECOVERY")) (ascii "RECOVERY") .recovery), s)
  | .stretch salt cand => (some (.stretch salt cand), s)
  | .keygen k => (some (.keygen k), s)
  | .random n => (some (.random n), s)

/-- A claimant moves to the end of the order (R31). -/
def moveLast (c : Claimant) (l : List Claimant) : List Claimant := l.filter (· != c) ++ [c]

/-- The arbiter's grant when the engine is free and a claim is pending (R31, R32); none otherwise. -/
def State.grantEngine (s : State) : Option State :=
  match s.engine.running with
  | some _ => none
  | none =>
    match s.engine.order.find? fun c => (s.engine.claim c).isSome with
    | none => none
    | some who =>
      match s.engine.claim who with
      | none => none
      | some p =>
        let s := s.mapEngine (·.setClaim who none)
        match s.gather who.chan p.claim with
        | (some j, s) =>
          some (s.mapEngine fun e =>
            { e with running := some { who := who, job := j, dropped := p.dropped }, order := moveLast who e.order })
        | (none, s) => some s

/-! ### Results handed back to the image checker (R162 to R166) -/

/-- A usable anchor by the record alone: kind, domain, payload length and the ANCHOR flag (R92 conditions 1 and 2, R192). -/
def anchorRecord (r : Rec) : Bool :=
  r.kind == .trustAnchor && r.domain == some .update && r.payload.length == 64 && r.flags.getLsbD useAnchor

/-- The manifest digest has come back: the signer slot's record is read and the anchor's digest is claimed (R164, R92). -/
def State.manifestDigested (s : State) (d : Bytes) : State :=
  let s := s.mapChecker fun c => { c with manDigest := some d }
  match s.store.keptRec (manifestSigner s.checker.manifest) with
  | none => s.checkFailed .signer
  | some r =>
    if anchorRecord r then (s.mapChecker fun c => { c with anchor := some r.payload }).fileClaim .F .digestAnchor
    else s.checkFailed .signer

/-- The anchor's digest has come back (R92 condition 3, R164). -/
def State.anchorDigested (s : State) (d : Bytes) : State :=
  if s.ota.vouches d then s.fileClaim .F .verifySig else s.checkFailed .signer

/-- The signature check has ended (R164): the rollback test, then HASHING. -/
def State.signatureChecked (s : State) (valid : Bool) : State :=
  if valid then
    if s.ota.belowFloor (manifestEpochs s.checker.manifest) then s.checkFailed .rollback
    else (s.mapChecker fun c => { c.setStep .hashing with segIndex := 0 }).startSegment
  else s.checkFailed .signature

/-- A chunk has been hashed (R165 step 3): the descriptor moves on, and the next chunk is read or the segment finished. -/
def State.chunkHashed (s : State) (st : DigestState) (n : Nat) : State :=
  let s := s.mapChecker fun c =>
    { c with digest := some st, descAddr := c.descAddr + n, descRem := c.descRem - n }
  if s.checker.descRem = 0 then s.fileClaim .F .digestSegment else s.readChunk

/-- A segment's digest has come back (R165). That the segment index stays at the last segment when every segment is confirmed is the
model's choice (log 47). -/
def State.segmentDigested (s : State) (d : Bytes) : State :=
  let c := s.checker
  if d = (manifestSegment c.manifest c.segIndex).digest then
    if c.segIndex + 1 < manifestCount c.manifest then
      (s.mapChecker fun c => { c with segIndex := c.segIndex + 1 }).startSegment
    else s.allHashed
  else s.checkFailed .digest

/-- An extension of a passing bank is complete (R142, R166): the next one, or the report of the pass. -/
def State.partExtended (s : State) : State :=
  let s := s.mapChecker fun c => { c with extended := c.extended + 1 }
  let c := s.checker
  if c.extended ≤ manifestCount c.manifest then s.extendNext
  else s.bootPassed c.bank (manifestEpochs c.manifest) (c.manDigest.getD zeros32)

/-! ### Results handed back to the requests of a channel -/

/-- The digest of an INSTALL ROOT key has come back (R48): an entry is chosen and its operation filed, or a refusal. -/
def State.rootDigested (s : State) (d : Bytes) : State :=
  if s.ota.vouches d then s.refuse .S .badArgument
  else
    match (List.range 4).find? fun i =>
      (s.ota.roots[i]?).any fun r => !r.present && orBytes r.digest d == r.digest with
    | none => s.refuse .S .noRoom
    | some i => (s.setWork .S (.rootProgram i d)).fileOta (.root i d)

/-- The composite of OPEN KEY has come back: the comparison and the load checks (R122). -/
def State.compositeDigested (s : State) (ch : Chan) (slot : Nat) (gen : Word) (r : Rec) (cleared : Bool) (d : Bytes) : State :=
  if d ≠ r.composite then s.refuse ch .policy
  else if s.store.gen slot ≠ gen then s.reply ch .generationMismatch (be 4 (s.store.gen slot).toNat)
  else if !s.granted ch r.domain then s.refuse ch .notPermitted
  else if r.needsOwner && s.owner.grant.isNone then s.refuse ch .notPermitted
  else
    let s := if r.needsOwner then s.useGrant else s
    if cleared then s.refuse ch .policy else s.loadContext ch slot gen r

/-- The digest of a quote statement has come back (R149). -/
def State.quoteDigested (s : State) (ch : Chan) (stmt d : Bytes) : State :=
  (s.setWork ch (.quoteSign stmt)).fileClaim (Chan.claimant ch) (.signQuote d)

/-- A digest is handed back to the block that asked for it. -/
def State.digestEnded (s : State) (who : Claimant) (p : DigestFor) (d : Bytes) : State :=
  match p with
  | .manifest => s.manifestDigested d
  | .anchor => s.anchorDigested d
  | .segment => s.segmentDigested d
  | .root => s.rootDigested d
  | .composite slot gen r cleared => s.compositeDigested who.chan slot gen r cleared d
  | .quote stmt => s.quoteDigested who.chan stmt d

/-- An EXTEND job has ended (R138, R141 to R143): the extension is completed, then its maker goes on. While a release waits for
it, the boot lanes close right after it (R136). -/
def State.extendEnded (s : State) (ch : Chan) (lane : Nat) (value digest label : Bytes) (src : Source) : State :=
  let v := extendOf value digest
  let s := s.completeExtension lane v digest label src
  let s :=
    match s.boot.stage with
    | .releaseClosing _ _ => { s with meas := { s.meas with bootOpen := false } }
    | _ => s
  match src with
  | .part => s.partExtended
  | .recovery => (s.setWork .S .recoveryRelease).mapBoot fun bt => { bt with stage := .releaseReady .recovery none }
  | .supervisor | .application => s.reply ch .ok (byte (s.meas.log.length - 1) :: v)

/-- A signature has come back (R129, R149). -/
def State.signEnded (s : State) (ch : Chan) (sig : Bytes) : State :=
  match s.work ch with
  | .use => s.reply ch .ok sig
  | .quoteSign stmt => s.reply ch .ok (stmt ++ sig)
  | _ => s

/-- A verifier has come back for the attempt of VERIFY OWNER (R107, R108); `r` is the pre-charged record. A mismatch reports the
hold-off that the pre-charge set and the entry's current count, which a READ THROTTLE may have decayed since (R103). -/
def State.verifyStretched (s : State) (slot : Nat) (r : Rec) (v : Bytes) : State :=
  let p := verifierParams r.payload
  let c := verifierCount r.payload
  if v = verifierValue r.payload then
    let s := s.setHold { s.holdOf slot with holdUntil := 0, lastEvent := s.owner.uptime }
    let s := { s with owner := { s.owner with grant := some { slot := slot, lastUse := s.owner.uptime }, idleDue := false } }
    (s.setWork .A (.verifyMatch c)).fileJob
      { slot := slot,
        record := { r with payload := verifierPayload (verifierSalt r.payload) (verifierValue r.payload) p 0 none },
        expected := none, writer := .ownerUnit, chan := some .A, filer := .matchWrite, orphan := false }
  else s.endGrant.reply .A .mismatch (be 4 (holdOff p c) ++ [byte (s.holdOf slot).count, 0#8])

/-- The record of SET VERIFIER (R115). -/
def verifierRecord (salt value : Bytes) (p : Params) : Rec :=
  { kind := .verifier, domain := some .owner, flags := 0#8, needsOwner := false, mask := 0#8, composite := zeros32,
    label := [], payload := verifierPayload salt value p 0 none }

/-- A verifier has come back (R107, R115). -/
def State.stretchEnded (s : State) (v : Bytes) : State :=
  match s.work .A with
  | .verifyStretch slot r => s.verifyStretched slot r v
  | .verifierStretch slot salt p expected =>
    (s.setWork .A (.verifierStore p)).fileJob
      { slot := slot, record := verifierRecord salt v p, expected := expected, writer := .channelRequest, chan := some .A,
        filer := .setVerifier, orphan := false }
  | _ => s

/-- Random bytes have come back for SET VERIFIER, or RNG_FAULT (R115, R29). -/
def State.randomEnded (s : State) (healthy : Bool) (drawn : Bytes) : State :=
  match s.work .A with
  | .verifierRandom slot pw p expected =>
    if healthy then (s.setWork .A (.verifierStretch slot drawn p expected)).fileClaim .A (.stretch drawn pw)
    else s.refuse .A .rngFault
  | _ => s

/-- A key has come back for GENERATE KEY (R85): the record is built and its job filed. -/
def State.keyGenerated (s : State) (ch : Chan) (payload : Bytes) (pub : Option Bytes) : State :=
  match s.work ch with
  | .generateKeygen slot r expected =>
    (s.setWork ch (.generateStore pub)).fileJob
      { slot := slot, record := { r with payload := payload }, expected := expected, writer := .channelRequest,
        chan := some ch, filer := .generateKey, orphan := false }
  | _ => s

/-- A device seed has come back (R47). -/
def State.seedGenerated (s : State) (seed : Bytes) : State := (s.setWork .S .keysProgram).fileOta (.keys seed)

/-- The attestation key has been computed (R27, R47): the engine holds it and the reply is placed. -/
def State.attestGenerated (s : State) (seed : Bytes) : State :=
  let k := attestKeyOf seed
  let s := s.mapEngine fun e => { e with attest := some k }
  match s.work .S with
  | .keysAttest .ok => s.reply .S .ok (k.pub ++ [s.lifeByte])
  | .keysAttest st => s.reply .S st (2#8 :: optBytes (some k.pub) ++ [s.lifeByte])
  | _ => s

end Sys2Proof.Machine
end

