-- ==== Sys2Proof/Machine/Settle.lean ====
section
/-! DEFINITION. What the blocks start at once when another block has given them work, all within one command (log 11): filing a
boot record change, filing a waiting job, taking a job, finding a page, a compaction, a retire mark, an OTA operation, the
first read of a check, and the engine's grant. -/
namespace Sys2Proof.Machine

/-- The boot controller turns to the oldest waiting change when none is outstanding (R153): it asks for a place in the FIFO. -/
def State.nextChange (s : State) : Option State :=
  match s.boot.active, s.boot.changes with
  | none, a :: rest =>
    some ((s.mapBoot fun bt => { bt with active := some { asked := a, built := none }, changes := rest }).mapStore fun st =>
      { st with waiters := st.waiters ++ [.boot] })
  | _, _ => none

/-- The boot record job of a change, built from the RAM copy (R153). -/
def bootJob (c : Change) (r : BootRec) : WriteJob :=
  { slot := 255, record := plainRec .bootRecord (bootRecPayload r), expected := none, writer := c.writer,
    chan := c.chan, filer := .boot, orphan := false }

/-- The commit change of an admission whose epochs are below a floor when it is built (R178). -/
def State.commitBelowFloor (s : State) (c : Change) : Bool :=
  match c with
  | .commitAdm _ e _ => s.ota.belowFloor e
  | .trialsOut _ | .trialInc _ | .reject _ | .passed _ _ _ _ | .select _ | .claiming _ | .confirmBank _ _ _
  | .confirmReject _ => false

/-- The boot controller files its outstanding change (R153, R178). -/
def State.fileChange (s : State) : State :=
  match s.boot.active with
  | none => s
  | some a =>
    if s.commitBelowFloor a.asked.change then
      let s := s.mapBoot fun bt => { bt with active := none }
      if a.asked.live then s.failAdmission (.check .rollback) else s
    else
      let r := s.boot.record.apply a.asked.change
      (s.mapBoot fun bt => { bt with active := some { a with built := some r } }).mapStore fun st =>
        { st with fifo := st.fifo ++ [bootJob a.asked.change r] }

/-- The filer that has waited longest files when the FIFO has a place (R62). -/
def State.fileWaiter (s : State) : Option State :=
  match s.store.waiters with
  | [] => none
  | w :: rest =>
    if s.store.fifo.length < 2 then
      let s := s.mapStore fun st => { st with waiters := rest }
      match w with
      | .job j => some (s.mapStore fun st => { st with fifo := st.fifo ++ [j] })
      | .boot => some s.fileChange
    else none

/-- The store controller's next step of its own: a page for the taken job (R64), or the take of the oldest job (R63). -/
def State.storeTurn (s : State) : Option State :=
  match s.store.op, s.store.comp, s.store.taken, s.store.fifo with
  | none, none, some t, _ => some (s.seekPage t.job)
  | none, none, none, j :: rest => some (s.takeJob j rest)
  | _, _, _, _ => none

/-- A compaction that is due starts (R67). -/
def State.compactTurn (s : State) : Option State :=
  match s.store.compactionDue with
  | some (v, t) => some (s.startCompaction v t)
  | none => none

/-- The store controller files a held retire mark when no outcome is outstanding (R71). -/
def State.markTurn (s : State) : Option State :=
  match s.store.marksHeld with
  | [] => none
  | b :: rest =>
    if s.store.markOut then none
    else some ((s.mapStore fun st => { st with markOut := true, marksHeld := rest }).fileOta (.retire b))

/-- The OTA controller takes the next operation (R37). -/
def State.otaTurn (s : State) : Option State :=
  match s.ota.current, s.ota.queue with
  | none, op :: rest => some ((s.mapOta fun o => { o with queue := rest }).takeOta op)
  | _, _ => none

/-- The identification read of a check starts once nothing of claimant F is left over, and for an admission once its CLAIMING
change has committed (R162, R176, R183). -/
def State.checkTurn (s : State) : Option State :=
  if s.checker.startWait && s.noLeftover && (s.checker.work == .boot || s.checker.claimed) then
    some ((s.mapChecker fun c => { c.setStep .reading with startWait := false, claimed := false }).startRead .id)
  else none

/-- One thing that a block starts of its own accord, the first that is due in a fixed order (log 11). -/
def State.settle1 (s : State) : Option State :=
  s.nextChange <|> s.fileWaiter <|> s.storeTurn <|> s.markTurn <|> s.otaTurn <|> s.checkTurn <|> s.grantEngine
    <|> s.compactTurn

/-- All of them, over at most `fuel` turns. -/
def settleLoop : (fuel : Nat) → State → State
  | 0, s => s
  | fuel + 1, s =>
    match s.settle1 with
    | none => s
    | some s' => settleLoop fuel s'

/-- The bound on the turns within one command: above the 254 slots of an OWNER RESET walk times its turns per slot. -/
def settleFuel : Nat := 2000

/-- The blocks start what they were given. -/
def State.settle (s : State) : State := settleLoop settleFuel s

/-- The outcome of a command of this part. -/
abbrev Result := Host.Outcome State Fault Refusal

/-- A request of a channel is taken by its block: `f` serves its body. A request that the channel has not handed over is not
there to be taken (log 1, log 2). -/
def State.serve (s : State) (ch : Chan) (code : Byte) (f : Bytes → State) : Result :=
  match s.request ch code with
  | none => .next s
  | some body => .next (f body)

/-- A request that can file work. -/
def State.serveWork (s : State) (ch : Chan) (code : Byte) (f : Bytes → State) : Result :=
  s.serve ch code fun body => (f body).settle

/-- A request with an empty body (table 11.2.2); another body is BAD_ARGUMENT (R8, R191). -/
def State.emptyBody (s : State) (ch : Chan) (body : Bytes) (t : State) : State :=
  match body with
  | [] => t
  | _ :: _ => s.refuse ch .badArgument

end Sys2Proof.Machine
end

