-- ==== Sys2Proof/Machine/Link.lean ====
section
/-! DEFINITION. The link: addresses, data bytes, frames, reads and the stuck-line timer (chapter 1, R1 to R11). -/
namespace Sys2Proof.Machine

/-- The line state set. -/
def State.setLine (s : State) (l : Line) : State := { s with link := { s.link with line := l } }

/-- The acknowledge bit given after a byte. -/
def State.setAck (s : State) (a : Bool) : State := { s with link := { s.link with ack := some a } }

/-! ### Closing a write (R4 to R8) -/

/-- Which requests a channel may make (R8), none for a code that is no code of the part (table 11.2.2). -/
def allowedOn (code : Byte) : Option (List Chan) :=
  if [0x01#8, 0x02#8, 0x03#8, 0x20#8, 0x28#8, 0x29#8, 0x2A#8, 0x2B#8, 0x33#8, 0x40#8, 0x41#8, 0x42#8, 0x43#8, 0x44#8, 0x45#8,
      0x46#8, 0x47#8, 0x50#8, 0x51#8, 0x52#8, 0x53#8, 0x60#8, 0x62#8, 0x71#8].contains code then some [.S, .A]
  else if [0x04#8, 0x10#8, 0x11#8, 0x12#8, 0x13#8, 0x21#8, 0x22#8, 0x34#8, 0x61#8].contains code then some [.S]
  else if [0x05#8, 0x30#8, 0x31#8, 0x32#8, 0x63#8, 0x70#8, 0x72#8, 0x73#8].contains code then some [.A]
  else none

/-- The three checks of R8: the status of the first that fails. -/
def permission (lc : Lifecycle) (ch : Chan) (code : Byte) : Option Status :=
  match allowedOn code with
  | none => some .unknownRequest
  | some chans =>
    if !chans.contains ch then some .notPermitted
    else if lc = .failed ∧ code ≠ 0x01#8 then some .wrongState
    else none

/-- The length that the two length bytes declare. -/
def Channel.declared (c : Channel) : Nat := beNat c.rxLen

/-- The frame has arrived in full (R4). -/
def Channel.complete (c : Channel) : Bool := c.rxLen.length == 2 && c.rx.length == c.declared + 2

/-- The request buffer emptied. -/
def Channel.clearRx (c : Channel) : Channel := { c with rxLen := [], rx := [], condemned := false }

/-- A channel that holds a reply of its own making and no request. -/
def Channel.answer (c : Channel) (st : Status) : Channel :=
  { c.clearRx with state := .replyReady, reply := some { status := st, body := [] }, work := .none }

/-- A closed frame judged (R5 to R8): an error reply, or the request handed to its block. -/
def Channel.close (c : Channel) (lc : Lifecycle) (ch : Chan) : Channel :=
  if c.condemned then c.answer .frameLength
  else if c.complete then
    let n := c.declared
    if c.rx.drop n = crcBytes (c.rxLen ++ c.rx.take n) then
      let code := byteAt c.rx 0
      match permission lc ch code with
      | some st => c.answer st
      | none => { c.clearRx with state := .working, reply := none, work := .handed code (c.rx.take n).tail }
    else c.answer .frameCheck
  else c.answer .frameShort

/-- The write in progress, if any, is closed by a STOP or a repeated START (R4, R7). -/
def State.closeWrite (s : State) : State :=
  match s.link.line with
  | .write ch _ =>
    if (s.chan ch).state = .receiving then s.setChan ch ((s.chan ch).close s.ota.lifecycle ch) else s
  | .waitStart | .ignoring | .readReply _ _ | .readNoReply _ _ | .readReleased => s

/-! ### Addressing (R1, R3) -/

/-- The channel of a 7-bit address. -/
def chanOfAddress (a : Nat) : Option Chan :=
  if a = 0x36 then some .S else if a = 0x37 then some .A else none

/-- An address byte: address in the upper seven bits, 1 in the lowest bit for a read. The answer and the line state that
follows it (R1, R3, R10). -/
def State.address (s : State) (b : Byte) : Bool × Line :=
  if s.power ≠ .running then (false, .ignoring)
  else
    match chanOfAddress (b.toNat / 2) with
    | none => (false, .ignoring)
    | some ch =>
      match (s.chan ch).state, b.getLsbD 0 with
      | .closed, _ | .working, _ | .receiving, _ => (false, .ignoring)
      | .idle, false | .replyReady, false => (true, .write ch 0)
      | .idle, true => (true, .readNoReply ch 0)
      | .replyReady, true => (true, .readReply ch 0)

/-- ADDRESS_BYTE (R1, R3; a repeated START closes the write before it, R7, log 12). -/
def execAddressByte (b : Byte) (s : State) : Result :=
  if s.power = .off then .next s
  else
    let s := s.closeWrite
    let r := s.address b
    .next ((s.setLine r.2).setAck r.1)

/-! ### Data bytes of a write (R4, R6) -/

/-- A channel in RECEIVING takes a byte: the channel after it and the acknowledge bit (R4, R6). -/
def Channel.takeData (c : Channel) (b : Byte) : Channel × Bool :=
  if c.condemned then (c, false)
  else if c.rxLen.length < 2 then
    let c := { c with rxLen := c.rxLen ++ [b] }
    ({ c with condemned := c.rxLen.length == 2 && (c.declared == 0 || 1025 < c.declared) }, true)
  else if c.rx.length < c.declared + 2 then ({ c with rx := c.rx ++ [b] }, true)
  else (c, false)

/-- The first data byte of a write moves an IDLE or REPLY_READY channel to RECEIVING and discards a held reply (R4). -/
def Channel.startReceiving (c : Channel) : Channel :=
  match c.state with
  | .idle | .replyReady => { c.clearRx with state := .receiving, reply := none }
  | .closed | .receiving | .working => c

/-- WRITE_DATA_BYTE (R4, R6). -/
def execWriteDataByte (b : Byte) (s : State) : Result :=
  match s.link.line with
  | .write ch n =>
    let c := (s.chan ch).startReceiving
    if c.state = .receiving then
      let r := c.takeData b
      .next (((s.setChan ch r.1).setLine (.write ch (if r.2 then n + 1 else n))).setAck r.2)
    else .next (s.setAck false)
  | .ignoring => .next (s.setAck false)
  | .waitStart | .readReply _ _ | .readNoReply _ _ | .readReleased => .next s

/-- FRAME_CLOSE: a STOP, or a repeated START, ends the transfer (R5, R7, R10). -/
def execFrameClose (s : State) : Result :=
  if s.power = .off then .next s else .next (s.closeWrite.setLine .waitStart)

/-! ### Reads (R10) -/

/-- `n` bytes clocked out of a frame from a position; past its end the line is released and reads 0xFF. -/
def clocked (frame : Bytes) (pos n : Nat) : Bytes := fit n 0xFF#8 ((frame.drop pos).take n)

/-- The bytes driven out last. -/
def State.setOut (s : State) (bs : Bytes) : State := { s with link := { s.link with dataOut := bs } }

/-- The reply has been read to its end: the channel goes to IDLE and the reply buffer is emptied (R10). -/
def State.replyRead (s : State) (ch : Chan) : State :=
  s.setChan ch { s.chan ch with state := .idle, reply := none }

/-- READ_FRAME: `n` more bytes of the addressed read are clocked out; `ends` when the host then ends it (R10, log 13). -/
def execReadFrame (n : Nat) (ends : Bool) (s : State) : Result :=
  match s.link.line with
  | .readReply ch pos =>
    match (s.chan ch).reply with
    | none => .next s
    | some r =>
      let f := r.frame
      let s := s.setOut (clocked f pos n)
      if f.length ≤ pos + n then .next ((s.replyRead ch).setLine (if ends then .waitStart else .readReleased))
      else .next (s.setLine (if ends then .waitStart else .readReply ch (pos + n)))
  | .readNoReply ch pos =>
    let s := s.setOut (clocked noReplyFrame pos n)
    .next (s.setLine (if ends then .waitStart else .readNoReply ch (pos + n)))
  | .readReleased => .next ((s.setOut (clocked [] 0 n)).setLine (if ends then .waitStart else .readReleased))
  | .waitStart | .ignoring | .write _ _ => .next s

/-! ### The stuck-line timer (R6, R7, R11) -/

/-- STUCK_LINE_TIMER_EXPIRY (R11): the timer runs during a transfer that is addressed to the part (log 14). -/
def execStuckLineTimerExpiry (s : State) : Result :=
  match s.link.line with
  | .write ch _ =>
    let c := s.chan ch
    let s :=
      if c.state = .receiving then s.setChan ch (c.answer (if c.condemned then .frameLength else .frameShort)) else s
    .next (s.setLine .ignoring)
  | .readReply _ _ | .readNoReply _ _ | .readReleased => .next (s.setLine .ignoring)
  | .waitStart | .ignoring => .next s

end Sys2Proof.Machine
end

