-- ==== Sys2Proof/Machine/Operands.lean ====
section
/-! DEFINITION. Reading the arguments of a request from its body: every form of table 11.2.2 and of R191. Each parser gives
none exactly where the body is not of the request's layout, and its request is then refused with BAD_ARGUMENT. -/
namespace Sys2Proof.Machine

/-- The next byte. -/
def takeByte : Bytes → Option (Byte × Bytes)
  | [] => none
  | b :: rest => some (b, rest)

/-- The next `n` bytes. -/
def takeBytes (n : Nat) (bs : Bytes) : Option (Bytes × Bytes) :=
  if n ≤ bs.length then some (bs.take n, bs.drop n) else none

/-- The next integer of `n` bytes. -/
def takeNat (n : Nat) (bs : Bytes) : Option (Nat × Bytes) :=
  match takeBytes n bs with
  | none => none
  | some (v, rest) => some (beNat v, rest)

/-- A yes-or-no byte (R191). -/
def takeFlag : Bytes → Option (Bool × Bytes)
  | [] => none
  | b :: rest => if b = 0#8 then some (false, rest) else if b = 1#8 then some (true, rest) else none

/-- A string: length byte, then that many bytes (R191). -/
def takeString : Bytes → Option (Bytes × Bytes)
  | [] => none
  | n :: rest => takeBytes n.toNat rest

/-- An optional field of `n` bytes after its presence byte (R191). -/
def takeOptional (n : Nat) : Bytes → Option (Option Bytes × Bytes)
  | [] => none
  | p :: rest =>
    if p = 0#8 then some (none, rest)
    else if p = 1#8 then
      match takeBytes n rest with
      | none => none
      | some (v, rest') => some (some v, rest')
    else none

/-- The value of a body that has been read to its end (R191). -/
def atEnd {α : Type} (x : α) : Bytes → Option α
  | [] => some x
  | _ :: _ => none

/-- A body of one byte. -/
def oneByte (body : Bytes) : Option Nat :=
  match body with
  | [b] => some b.toNat
  | _ => none

/-- SET SETTING: number and value. -/
def parseSetSetting (body : Bytes) : Option (Nat × Nat) :=
  match body with
  | [n, a, b, c, d] => some (n.toNat, beNat [a, b, c, d])
  | _ => none

/-- SET GUARD: lower, upper, invert. -/
def parseSetGuard (body : Bytes) : Option (Nat × Nat × Nat) :=
  match body with
  | [l, u, i] => some (l.toNat, u.toNat, i.toNat)
  | _ => none

/-- A body that is one handle. -/
def parseHandle (body : Bytes) : Option Handle :=
  match body with
  | [e, p] => some { entry := e.toNat, epoch := p }
  | _ => none

/-- The next handle, entry number at most 11 (R120). -/
def takeHandle : Bytes → Option (Handle × Bytes)
  | e :: p :: rest => if e.toNat ≤ 11 then some ({ entry := e.toNat, epoch := p }, rest) else none
  | _ => none

/-- An expected generation when given. -/
def optWord (o : Option Bytes) : Option Word := o.map fun bs => BitVec.ofNat 32 (beNat bs)

/-- The arguments of WRITE SLOT and GENERATE KEY. -/
structure SlotArgs where
  slot     : Nat
  r        : Rec
  expected : Option Word
deriving DecidableEq, Repr

/-- The body of WRITE SLOT, or of GENERATE KEY with an empty payload (table 11.2.2). -/
def parseSlotArgs (body : Bytes) : Option SlotArgs := do
  let (slot, b) ← takeByte body
  let (kind, b) ← takeByte b
  let (dom, b) ← takeByte b
  let (flags, b) ← takeByte b
  let (needs, b) ← takeFlag b
  let (mask, b) ← takeByte b
  let (comp, b) ← if mask = 0#8 then some (zeros32, b) else takeBytes 32 b
  let (label, b) ← takeString b
  let (payload, b) ← takeString b
  let (gen, b) ← takeOptional 4 b
  let k ← Kind.ofCode kind
  let d ← Domain.ofCode dom
  atEnd { slot := slot.toNat,
          r := { kind := k, domain := some d, flags := flags, needsOwner := needs, mask := mask, composite := comp,
                 label := label, payload := payload },
          expected := optWord gen } b

/-- DELETE SLOT: slot id and optional expected generation. -/
def parseDeleteSlot (body : Bytes) : Option (Nat × Option Word) := do
  let (slot, b) ← takeByte body
  let (gen, b) ← takeOptional 4 b
  atEnd (slot.toNat, optWord gen) b

/-- VERIFY OWNER: slot id and candidate of 1..64 bytes (R105). -/
def parseVerifyOwner (body : Bytes) : Option (Nat × Bytes) := do
  let (slot, b) ← takeByte body
  let (cand, b) ← takeString b
  if 1 ≤ cand.length ∧ cand.length ≤ 64 then atEnd (slot.toNat, cand) b else none

/-- The arguments of SET VERIFIER. -/
structure SetVerifierArgs where
  slot     : Nat
  password : Bytes
  params   : Params
  expected : Option Word
deriving DecidableEq, Repr

/-- The parameters of a 9-byte parameter field. -/
def paramsOf (p : Bytes) : Params :=
  { F := (byteAt p 0).toNat, B := (byteAt p 1).toNat, C := beNat (slice p 2 4), L := (byteAt p 6).toNat,
    P := beNat (slice p 7 2) }

/-- SET VERIFIER: slot id, password of 1..64 bytes, optional parameters (clamped, or the defaults), optional expected
generation (R100, R114). -/
def parseSetVerifier (body : Bytes) : Option SetVerifierArgs := do
  let (slot, b) ← takeByte body
  let (pw, b) ← takeString b
  let (par, b) ← takeOptional 9 b
  let (gen, b) ← takeOptional 4 b
  if 1 ≤ pw.length ∧ pw.length ≤ 64 then
    atEnd { slot := slot.toNat, password := pw,
            params := match par with
              | none => Params.defaults
              | some p => (paramsOf p).clamped,
            expected := optWord gen } b
  else none

/-- SIGN: handle and 32-byte digest (R127). -/
def parseSign (body : Bytes) : Option (Handle × Bytes) := do
  let (h, b) ← takeHandle body
  let (d, b) ← takeBytes 32 b
  atEnd (h, d) b

/-- DERIVE: handle and info of 0..64 bytes (R127). -/
def parseDerive (body : Bytes) : Option (Handle × Bytes) := do
  let (h, b) ← takeHandle body
  let (i, b) ← takeString b
  if i.length ≤ 64 then atEnd (h, i) b else none

/-- RELEASE SECRET: handle (R127). -/
def parseRelease (body : Bytes) : Option Handle := do
  let (h, b) ← takeHandle body
  atEnd h b

/-- The arguments of EXTEND. -/
structure ExtendArgs where
  lane   : Nat
  digest : Bytes
  label  : Bytes
deriving DecidableEq, Repr

/-- EXTEND: lane 0..7, digest, label of 0..16 bytes (R139 check 1, R140 check 1). -/
def parseExtend (body : Bytes) : Option ExtendArgs := do
  let (lane, b) ← takeByte body
  let (d, b) ← takeBytes 32 b
  let (label, b) ← takeString b
  if lane.toNat ≤ 7 ∧ label.length ≤ 16 then atEnd { lane := lane.toNat, digest := d, label := label } b else none

/-- QUOTE: nonce of 8..32 bytes and lane mask (R147 check 1). -/
def parseQuote (body : Bytes) : Option (Bytes × Byte) := do
  let (nonce, b) ← takeString body
  let (mask, b) ← takeByte b
  if 8 ≤ nonce.length ∧ nonce.length ≤ 32 then atEnd (nonce, mask) b else none

/-- READ LOG: first index 0..47 and count 1..16 (R146). -/
def parseReadLog (body : Bytes) : Option (Nat × Nat) :=
  match body with
  | [f, c] => if f.toNat ≤ 47 ∧ 1 ≤ c.toNat ∧ c.toNat ≤ 16 then some (f.toNat, c.toNat) else none
  | _ => none

end Sys2Proof.Machine
end

