-- ==== Sys2Proof/Machine/ChannelReq.lean ====
section
/-! DEFINITION. IDENTIFY, READ EVENTS, GET SETTING, SET SETTING and RESTRICT GRANTS (chapter 1, R16 to R23). -/
namespace Sys2Proof.Machine

/-- The body of an IDENTIFY reply (R20, R191). R191 names the root entries among lists of varying length and R20 fixes them at four:
that no count stands before them is the model's reading (log 45). -/
def State.identifyBody (s : State) : Bytes :=
  optBytes (s.ota.identity.map (·.take 26)) ++ [s.lifeByte] ++ optBytes (s.engine.attest.map (·.pub))
    ++ (s.ota.roots.flatMap fun r => flagByte r.present :: (if r.present then r.digest else zeros32))
    ++ [byte s.ota.loader, byte s.ota.system, byte s.ota.radio, byte s.ota.epoch, s.boot.state.code, s.boot.mode.code]

/-- IDENTIFY (R20). -/
def execIdentify (ch : Chan) (s : State) : Result :=
  s.serve ch 0x01#8 fun body => s.emptyBody ch body (s.reply ch .ok s.identifyBody)

/-- READ EVENTS at its take: the pending event of highest priority is cleared (R19). -/
def State.takeEvent (s : State) (ch : Chan) : State :=
  let c := s.chan ch
  match c.firstFlag with
  | none => s.reply ch .ok [eventCode none, 0#8]
  | some i =>
    let c' := c.setFlag i false
    (s.setChan ch c').reply ch .ok [eventCode (Chan.events ch)[i]?, byte c'.flagCount]

/-- READ EVENTS (R19). -/
def execReadEvents (ch : Chan) (s : State) : Result :=
  s.serve ch 0x02#8 fun body => s.emptyBody ch body (s.takeEvent ch)

/-- A setting number of the table of section 1.8. -/
def settingNumber (n : Nat) : Bool := 1 ≤ n && n ≤ 7

/-- GET SETTING (R21). -/
def execGetSetting (ch : Chan) (s : State) : Result :=
  s.serve ch 0x03#8 fun body =>
    match oneByte body with
    | none => s.refuse ch .badArgument
    | some n =>
      if settingNumber n then s.reply ch .ok (byte n :: be 4 (s.settings.get n)) else s.refuse ch .badArgument

/-- The job of the settings writer (R22 step 3). -/
def settingsJob (set : Settings) (num val : Nat) : WriteJob :=
  { slot := 0, record := plainRec .settings (settingsPayload (set.set num val)), expected := none,
    writer := .settingsWriter, chan := some .S, filer := .settings num val, orphan := false }

/-- SET SETTING (R22). -/
def execSetSetting (s : State) : Result :=
  s.serveWork .S 0x04#8 fun body =>
    match parseSetSetting body with
    | none => s.refuse .S .badArgument
    | some (n, v) =>
      if settingNumber n then
        (s.setWork .S .setSetting).fileJob (settingsJob s.settings n (clampSetting n v))
      else s.refuse .S .badArgument

/-- The grant set of channel A narrowed, with the notices to the context table (R16, R133). -/
def State.narrow (s : State) (remove : DomSet) : State :=
  let old := s.chA.grants
  let s := { s with chA := { s.chA with grants := old &&& ~~~remove } }
  s.invalidate fun c => c.owner == .A && c.domain.any fun d => old.getLsbD d.bit && remove.getLsbD d.bit

/-- RESTRICT GRANTS (R16). -/
def execRestrictGrants (s : State) : Result :=
  s.serve .A 0x05#8 fun body =>
    match oneByte body with
    | none => s.refuse .A .badArgument
    | some n =>
      if n < 64 then
        let s := s.narrow (BitVec.ofNat 6 n)
        s.reply .A .ok [s.chA.grants.setWidth 8]
      else s.refuse .A .badArgument

end Sys2Proof.Machine
end

