-- ==== Sys2Proof/Machine/Provision.lean ====
section
/-! DEFINITION. The provisioning requests WRITE IDENTITY, GENERATE DEVICE KEYS, INSTALL ROOT and SEAL (chapter 3, R45 to R49). -/
namespace Sys2Proof.Machine

/-- The refusal of a provisioning request in the wrong lifecycle, with the lifecycle (R45). -/
def State.wrongLifecycle (s : State) : State := s.reply .S .wrongState [s.lifeByte]

/-- WRITE IDENTITY (R46). -/
def execWriteIdentity (s : State) : Result :=
  s.serveWork .S 0x10#8 fun body =>
    if body.length ≠ 21 then s.refuse .S .badArgument
    else if s.ota.lifecycle ≠ .blank then s.wrongLifecycle
    else (s.setWork .S .writeIdentity).fileOta (.identity (identityRecord body))

/-- GENERATE DEVICE KEYS (R47). -/
def execGenerateDeviceKeys (s : State) : Result :=
  s.serveWork .S 0x11#8 fun body =>
    s.emptyBody .S body
      (if s.ota.lifecycle ≠ .personalized ∨ s.ota.keysExist = true ∨ s.ota.cells.locked 1 = true then s.wrongLifecycle
       else if s.ota.cells.spoiled then s.refuse .S .otpFault
       else (s.setWork .S .keysSeed).fileClaim .S (.keygen .deviceSeed))

/-- INSTALL ROOT (R48). -/
def execInstallRoot (s : State) : Result :=
  s.serveWork .S 0x12#8 fun body =>
    if body.length ≠ 64 then s.refuse .S .badArgument
    else if (s.ota.lifecycle ≠ .blank ∧ s.ota.lifecycle ≠ .personalized) ∨ s.ota.cells.locked 2 = true then s.wrongLifecycle
    else (s.setWork .S .rootDigest).fileClaim .S (.digestRoot body)

/-- SEAL (R49). -/
def execSeal (s : State) : Result :=
  s.serveWork .S 0x13#8 fun body =>
    s.emptyBody .S body
      (if s.ota.lifecycle ≠ .personalized ∨ s.ota.keysExist = false ∨ s.ota.rootCount = 0 then s.wrongLifecycle
       else (s.setWork .S .seal).fileOta .seal)

end Sys2Proof.Machine
end

