-- ==== Sys2Proof/Machine/SlotReq.lean ====
section
/-! DEFINITION. Store health, the slot guard, and the slot requests WRITE SLOT, GENERATE KEY, DELETE SLOT and READ SLOT INFO
(chapters 4 and 5, R74 to R77, R80 to R88). -/
namespace Sys2Proof.Machine

/-! ### Store health (R74) -/

/-- The count of blocks in a state. -/
def Store.countBlocks (st : Store) (x : BlockState) : Nat := ((List.range 40).filter fun b => st.block b == x).length

/-- The pages of all blocks that are not retired. -/
def Store.alivePages (st : Store) : List Nat :=
  ((List.range 40).filter fun b => st.block b != .retired).flatMap pagesOf

/-- The spare as reported: none while a compaction or a recovery erase uses it (R74). -/
def Store.spareReport (st : Store) : Option Nat :=
  match st.comp, st.op with
  | some _, _ => none
  | none, some (.recoveryErase _) => none
  | none, _ => st.firstBlock .spare

/-- The fault record in a reply (R74). -/
def faultBytes (f : Option FaultRec) : Bytes :=
  optBytes (f.map fun f => f.kind.code :: blockCode f.block :: be 4 f.uptime ++ [flagByte f.more])

/-- The guard in a reply: lower, upper, invert (R76), then frozen (R77). -/
def Guard.bytes (g : Guard) : Bytes := [byte g.lower, byte g.upper, flagByte g.invert]

/-- The body of READ STORE HEALTH (R74, R191). -/
def State.healthBody (s : State) : Bytes :=
  let st := s.store
  let pages := st.alivePages
  faultBytes st.fault
    ++ [byte (st.countBlocks .free), byte (st.countBlocks .filled), byte (st.countBlocks .retired),
        blockCode (st.firstBlock .openBlock), blockCode st.spareReport]
    ++ be 2 (pages.filter st.isLive).length ++ be 2 (pages.filter st.isStale).length
    ++ be 2 (pages.filter fun p => !st.isUsed p && !st.isLive p).length ++ be 2 st.freePages
    ++ flagByte st.degraded :: s.guard.bytes ++ [flagByte s.guard.frozen]

/-- READ STORE HEALTH (R74): the fault record is cleared at the take. -/
def execReadStoreHealth (ch : Chan) (s : State) : Result :=
  s.serve ch 0x20#8 fun body =>
    s.emptyBody ch body ((s.mapStore fun st => { st with fault := none }).reply ch .ok s.healthBody)

/-! ### The slot guard (R76, R77) -/

/-- The values SET GUARD accepts (R76). -/
def guardArgs (l u i : Nat) : Bool := 1 ≤ l && u ≤ 254 && l ≤ u && i ≤ 1

/-- SET GUARD (R76). -/
def execSetGuard (s : State) : Result :=
  s.serve .S 0x21#8 fun body =>
    match parseSetGuard body with
    | none => s.refuse .S .badArgument
    | some (l, u, i) =>
      if s.guard.frozen then s.refuse .S .wrongState
      else if guardArgs l u i then
        let g : Guard := { s.guard with lower := l, upper := u, invert := i == 1 }
        { s with guard := g }.reply .S .ok g.bytes
      else s.refuse .S .badArgument

/-- FREEZE GUARD (R77). -/
def execFreezeGuard (s : State) : Result :=
  s.serve .S 0x22#8 fun body =>
    s.emptyBody .S body
      (if s.guard.frozen then s.refuse .S .wrongState
       else { s with guard := { s.guard with frozen := true } }.reply .S .ok (s.guard.bytes ++ [flagByte true]))

/-! ### Arguments of the slot requests (R80, R81, R83, R85) -/

/-- The use flags a kind may have (R80). -/
def Kind.useFlags : Kind → Byte
  | .secret => 0x04#8
  | .linkKey => 0x02#8
  | .signingKey => 0x01#8
  | .trustAnchor => 0x08#8
  | .empty | .verifier | .settings | .bootRecord => 0#8

/-- The kinds a domain admits (R81). -/
def Domain.admits : Domain → Kind → Bool
  | .platform, k => k == .signingKey || k == .linkKey
  | .update, k => k == .trustAnchor
  | .owner, k => k == .verifier
  | .network, k => k == .secret || k == .linkKey
  | .client, k => k == .secret || k == .linkKey || k == .signingKey
  | .service, k => k == .signingKey || k == .linkKey || k == .secret

/-- Check 2 of R83: the domain admits the kind, the flags are among the kind's, and a trust anchor carries no owner flag and no
binding (R80, R81). -/
def goodSlotFields (r : Rec) : Bool :=
  r.domain.any (fun d => Domain.admits d r.kind) && r.flags &&& ~~~(Kind.useFlags r.kind) == 0#8
    && (r.kind != .trustAnchor || (!r.needsOwner && r.mask == 0#8))

/-- Check 1 of R83 for WRITE SLOT. -/
def goodWriteArgs (a : SlotArgs) : Bool :=
  userSlot a.slot && a.r.label.length ≤ 24
    && (match a.r.kind with
        | .secret => 1 ≤ a.r.payload.length && a.r.payload.length ≤ 64
        | .linkKey => a.r.payload.length == 32
        | .trustAnchor => a.r.payload.length == 64
        | .empty | .verifier | .signingKey | .settings | .bootRecord => false)

/-- Check 1 of R83 for GENERATE KEY (R85). -/
def goodGenerateArgs (a : SlotArgs) : Bool :=
  userSlot a.slot && a.r.label.length ≤ 24 && a.r.payload.isEmpty && (a.r.kind == .signingKey || a.r.kind == .linkKey)

/-- The job of WRITE SLOT (R83). -/
def writeSlotJob (ch : Chan) (a : SlotArgs) : WriteJob :=
  { slot := a.slot, record := a.r, expected := a.expected, writer := .channelRequest, chan := some ch, filer := .writeSlot,
    orphan := false }

/-- WRITE SLOT (R83). -/
def execWriteSlot (ch : Chan) (s : State) : Result :=
  s.serveWork ch 0x28#8 fun body =>
    match parseSlotArgs body with
    | none => s.refuse ch .badArgument
    | some a =>
      if goodWriteArgs a && goodSlotFields a.r then
        match s.judgeWrite ch a.r.domain with
        | (true, s) => (s.setWork ch .writeSlot).fileJob (writeSlotJob ch a)
        | (false, s) => s.refuse ch .notPermitted
      else s.refuse ch .badArgument

/-- What KEYGEN makes for a kind (R29). -/
def genKindOf (k : Kind) : GenKind := if k = .signingKey then .signingKey else .linkKey

/-- GENERATE KEY (R85). -/
def execGenerateKey (ch : Chan) (s : State) : Result :=
  s.serveWork ch 0x29#8 fun body =>
    match parseSlotArgs body with
    | none => s.refuse ch .badArgument
    | some a =>
      if goodGenerateArgs a && goodSlotFields a.r then
        match s.judgeWrite ch a.r.domain with
        | (true, s) =>
          (s.setWork ch (.generateKeygen a.slot a.r a.expected)).fileClaim (Chan.claimant ch) (.keygen (genKindOf a.r.kind))
        | (false, s) => s.refuse ch .notPermitted
      else s.refuse ch .badArgument

/-- The job of DELETE SLOT (R86). -/
def deleteSlotJob (ch : Chan) (slot : Nat) (expected : Option Word) : WriteJob :=
  { slot := slot, record := tombstone, expected := expected, writer := .channelRequest, chan := some ch, filer := .deleteSlot,
    orphan := false }

/-- DELETE SLOT (R86). -/
def execDeleteSlot (ch : Chan) (s : State) : Result :=
  s.serveWork ch 0x2A#8 fun body =>
    match parseDeleteSlot body with
    | none => s.refuse ch .badArgument
    | some (slot, expected) =>
      if userSlot slot then
        match s.store.keptRec slot with
        | none => s.reply ch .noSlot (be 4 (s.store.gen slot).toNat)
        | some r =>
          match s.judgeWrite ch (if r.kind = .verifier then some .owner else r.domain) with
          | (true, s) => (s.setWork ch .deleteSlot).fileJob (deleteSlotJob ch slot expected)
          | (false, s) => s.refuse ch .notPermitted
      else s.refuse ch .badArgument

/-- The contents of READ SLOT INFO for a record (R87, R191). R192 lists no handling by this reader of a payload of another length
than its kind's: that missing bytes of a SIGNING_KEY or VERIFIER read 0 and that a TRUST_ANCHOR's payload is given at its own length
is the model's choice (log 41). -/
def slotInfo (gen : Word) (r : Rec) : Bytes :=
  let pub :=
    match r.kind with
    | .signingKey => some (slice r.payload 32 64)
    | .trustAnchor => some r.payload
    | .empty | .verifier | .secret | .linkKey | .settings | .bootRecord => none
  let len := if r.kind = .secret then some [byte r.payload.length] else none
  let thr := if r.kind = .verifier then some (slice r.payload 48 9 ++ [byteAt r.payload 57]) else none
  [r.kind.code, domainCode r.domain, r.flags, flagByte r.needsOwner] ++ be 4 gen.toNat
    ++ r.mask :: optBytes (if r.mask = 0#8 then none else some r.composite)
    ++ byte r.label.length :: r.label ++ optBytes pub ++ optBytes len ++ optBytes thr

/-- READ SLOT INFO (R87). -/
def execReadSlotInfo (ch : Chan) (s : State) : Result :=
  s.serve ch 0x2B#8 fun body =>
    match oneByte body with
    | none => s.refuse ch .badArgument
    | some slot =>
      if userSlot slot then
        match s.store.keptRec slot with
        | none => s.reply ch .noSlot (be 4 (s.store.gen slot).toNat)
        | some r =>
          if s.granted ch r.domain then s.reply ch .ok (slotInfo (s.store.gen slot) r) else s.refuse ch .notPermitted
      else s.refuse ch .badArgument

end Sys2Proof.Machine
end

