-- ==== Sys2Proof/Machine/OwnerReq.lean ====
section
/-! DEFINITION. VERIFY OWNER, END OWNER, SET VERIFIER, READ THROTTLE and OWNER RESET (chapter 6, R103 to R118). -/
namespace Sys2Proof.Machine

/-- Decay applied to a slot's entry (R103). -/
def State.applyDecay (s : State) (slot : Nat) (p : Params) : State :=
  s.setHold (decayed p s.owner.uptime (s.holdOf slot))

/-- The record of a pre-charge with a count (R106). -/
def prechargeRecord (r : Rec) (count uptime : Nat) : Rec :=
  { r with payload := verifierPayload (verifierSalt r.payload) (verifierValue r.payload) (verifierParams r.payload) count
                        (some uptime) }

/-- The job of a pre-charge (R106). -/
def prechargeJob (slot : Nat) (r : Rec) : WriteJob :=
  { slot := slot, record := r, expected := none, writer := .ownerUnit, chan := some .A, filer := .precharge, orphan := false }

/-- An attempt on a verifier that is not locked out: decay, the hold-off, the pre-charge (R105, R106). -/
def State.attempt (s : State) (slot : Nat) (cand : Bytes) (r : Rec) : State :=
  let before := s.owner.entry slot
  let s := s.applyDecay slot (verifierParams r.payload)
  let e := s.holdOf slot
  if s.owner.uptime < e.holdUntil then s.reply .A .throttled (be 4 (e.holdUntil - s.owner.uptime) ++ [byte e.count])
  else
    (s.setWork .A (.verifyPrecharge slot cand before)).fileJob
      (prechargeJob slot (prechargeRecord r (min 255 (e.count + 1)) s.owner.uptime))

/-- A platform restart finds an attempt whose pre-charge has not been taken: the slot's entry is again as before the request, the
decay at the take included (R109). An entry that a tombstone has removed since stays removed (R101). -/
def State.undoAttempt (s : State) : State :=
  match s.work .A with
  | .verifyPrecharge slot _ before =>
    if (s.store.taken.any fun t => t.job.filer == .precharge && !t.job.orphan) || (s.owner.entry slot).isNone then s
    else
      match before with
      | some e => s.setHold e
      | none => { s with owner := { s.owner with table := s.owner.table.filter fun e => e.slot != slot } }
  | _ => s

/-- VERIFY OWNER at its take (R105). -/
def State.verifyOwner (s : State) (slot : Nat) (cand : Bytes) : State :=
  if !userSlot slot then s.refuse .A .badArgument
  else if !s.granted .A (some .owner) then s.refuse .A .notPermitted
  else
    match s.store.keptRec slot with
    | none => s.refuse .A .noSlot
    | some r =>
      if !goodVerifier r || r.domain != some .owner then s.refuse .A .slotKind
      else if lockedOut (verifierParams r.payload) (s.holdOf slot).count then
        s.reply .A .lockedOut [byte (s.holdOf slot).count]
      else s.attempt slot cand r

/-- VERIFY OWNER (R105). -/
def execVerifyOwner (s : State) : Result :=
  s.serveWork .A 0x30#8 fun body =>
    match parseVerifyOwner body with
    | none => s.refuse .A .badArgument
    | some (slot, cand) => s.verifyOwner slot cand

/-- END OWNER (R113). -/
def execEndOwner (s : State) : Result :=
  s.serve .A 0x31#8 fun body =>
    s.emptyBody .A body (s.endGrant.reply .A .ok [flagByte s.owner.grant.isSome])

/-- The third check of SET VERIFIER: the status of its refusal, if any (R114, R192). -/
def State.verifierLocked (s : State) (slot : Nat) : Option Status :=
  match s.store.keptRec slot with
  | none => none
  | some r =>
    if r.kind = .verifier then
      if goodVerifier r then
        if lockedOut (verifierParams r.payload) (s.holdOf slot).count then some .wrongState else none
      else some .slotKind
    else none

/-- SET VERIFIER at its take (R114, R115). -/
def State.setVerifier (s : State) (a : SetVerifierArgs) : State :=
  if !userSlot a.slot then s.refuse .A .badArgument
  else
    match s.judgeVerifier with
    | (false, s) => s.refuse .A .notPermitted
    | (true, s) =>
      match s.verifierLocked a.slot with
      | some st => s.refuse .A st
      | none => (s.setWork .A (.verifierRandom a.slot a.password a.params a.expected)).fileClaim .A (.random 16)

/-- SET VERIFIER (R114). -/
def execSetVerifier (s : State) : Result :=
  s.serveWork .A 0x32#8 fun body =>
    match parseSetVerifier body with
    | none => s.refuse .A .badArgument
    | some a => s.setVerifier a

/-- The contents of READ THROTTLE (R116). -/
def throttleBody (uptime : Nat) (r : Rec) (e : HoldEntry) : Bytes :=
  let p := verifierParams r.payload
  let locked := lockedOut p e.count
  byte e.count :: paramsBytes p ++ be 4 (if locked then 0 else e.holdUntil - uptime)
    ++ flagByte locked :: optBytes ((verifierMarker r.payload).map (be 4))

/-- READ THROTTLE (R116). -/
def execReadThrottle (ch : Chan) (s : State) : Result :=
  s.serve ch 0x33#8 fun body =>
    match oneByte body with
    | none => s.refuse ch .badArgument
    | some slot =>
      if userSlot slot then
        match s.store.keptRec slot with
        | none => s.refuse ch .noSlot
        | some r =>
          if goodVerifier r then
            let s := s.applyDecay slot (verifierParams r.payload)
            s.reply ch .ok (throttleBody s.owner.uptime r (s.holdOf slot))
          else s.refuse ch .slotKind
      else s.refuse ch .badArgument

/-- OWNER RESET (R117); `rcv`: RCV_N is asserted at the take. -/
def execOwnerReset (rcv : Bool) (s : State) : Result :=
  s.serveWork .S 0x34#8 fun body =>
    let s := { s with rcv := rcv }
    s.emptyBody .S body
      (if s.inBootPhase && s.rcv then
        (s.setWork .S .resetEpoch).fileOta (.advance .ownerEpoch (s.ota.epoch + 1) .ownerReset)
       else s.refuse .S .wrongState)

end Sys2Proof.Machine
end

