-- ==== Sys2Proof/Machine/CtxReq.lean ====
section
/-! DEFINITION. OPEN KEY, CLOSE KEY, PIN KEY, UNPIN KEY, LIST CONTEXTS, SIGN, DERIVE and RELEASE SECRET (chapter 7). -/
namespace Sys2Proof.Machine

/-- Check 5 of R121 on a channel: the answer, and the state with the grant's last use set when it was found active. -/
def State.judgeOpen (s : State) (ch : Chan) (r : Rec) : Bool × State :=
  if r.needsOwner then
    match ch with
    | .S => (false, s)
    | .A => if s.owner.grant.isSome then (true, s.useGrant) else (false, s)
  else (true, s)

/-- OPEN KEY at its take (R121). -/
def State.openKey (s : State) (ch : Chan) (slot : Nat) : State :=
  match s.store.keptRec slot with
  | none => s.refuse ch .noSlot
  | some r =>
    if !openable r then s.refuse ch .slotKind
    else if !s.granted ch r.domain then s.refuse ch .notPermitted
    else
      match s.judgeOpen ch r with
      | (false, s) => s.refuse ch .notPermitted
      | (true, s) =>
        if r.mask = 0#8 then s.loadContext ch slot (s.store.gen slot) r
        else (s.setWork ch .openKey).fileClaim (Chan.claimant ch) (.digestComposite slot (s.store.gen slot) r)

/-- OPEN KEY (R121 to R123). -/
def execOpenKey (ch : Chan) (s : State) : Result :=
  s.serveWork ch 0x40#8 fun body =>
    match oneByte body with
    | none => s.refuse ch .badArgument
    | some slot => if userSlot slot then s.openKey ch slot else s.refuse ch .badArgument

/-- A request that carries one handle: an entry number above 11 is BAD_ARGUMENT, another bad handle STALE_HANDLE (R120). -/
def State.withHandle (s : State) (ch : Chan) (body : Bytes) (f : Handle → Ctx → State) : State :=
  match parseHandle body with
  | none => s.refuse ch .badArgument
  | some h =>
    if 11 < h.entry then s.refuse ch .badArgument
    else
      match s.ctx.good ch h with
      | none => s.refuse ch .staleHandle
      | some c => f h c

/-- CLOSE KEY (R124). -/
def execCloseKey (ch : Chan) (s : State) : Result :=
  s.serve ch 0x41#8 fun body =>
    s.withHandle ch body fun h _ =>
      { s with ctx := { s.ctx with entries := s.ctx.entries.modify h.entry CtxEntry.free } }.reply ch .ok [h.epoch + 1#8]

/-- An entry's pinned flag set. -/
def CtxTable.setPinned (t : CtxTable) (h : Handle) (c : Ctx) (v : Bool) : CtxTable :=
  t.setEntry h.entry { epoch := h.epoch, ctx := some { c with pinned := v } }

/-- The reply of PIN KEY and UNPIN KEY: the count of pinned entries after the request (R125, log 20). -/
def State.pinReply (s : State) (ch : Chan) : State := s.reply ch .ok [byte s.ctx.pinnedCount]

/-- PIN KEY (R125). -/
def execPinKey (ch : Chan) (s : State) : Result :=
  s.serve ch 0x42#8 fun body =>
    s.withHandle ch body fun h c =>
      if c.pinned then s.pinReply ch
      else if 4 ≤ s.ctx.pinnedCount then s.refuse ch .noRoom
      else { s with ctx := s.ctx.setPinned h c true }.pinReply ch

/-- UNPIN KEY (R125). -/
def execUnpinKey (ch : Chan) (s : State) : Result :=
  s.serve ch 0x43#8 fun body =>
    s.withHandle ch body fun h c => { s with ctx := s.ctx.setPinned h c false }.pinReply ch

/-- The LOADED entries of a channel with their numbers, in ascending order. -/
def CtxTable.owned (t : CtxTable) (ch : Chan) : List (Handle × Ctx) :=
  (List.range t.entries.length).filterMap fun i =>
    match t.entries[i]? with
    | none => none
    | some e =>
      match e.ctx with
      | none => none
      | some c => if c.owner = ch then some ({ entry := i, epoch := e.epoch }, c) else none

/-- The use rank of a stamp among a channel's entries: 1 for the largest (R126). -/
def useRank (l : List (Handle × Ctx)) (stamp : Nat) : Nat := (l.filter fun x => stamp < x.2.stamp).length + 1

/-- One item of LIST CONTEXTS (R126). -/
def contextItem (l : List (Handle × Ctx)) (x : Handle × Ctx) : Bytes :=
  let c := x.2
  [byte x.1.entry, x.1.epoch, byte c.slot] ++ be 4 c.gen.toNat
    ++ [c.kind.code, c.flags, flagByte c.needsOwner, c.mask, flagByte c.pinned, byte (useRank l c.stamp)]
    ++ optBytes (if c.kind = .signingKey then some (slice c.material 32 64) else none)

/-- LIST CONTEXTS (R126). -/
def execListContexts (ch : Chan) (s : State) : Result :=
  s.serve ch 0x44#8 fun body =>
    let l := s.ctx.owned ch
    s.emptyBody ch body
      (s.reply ch .ok ([byte s.ctx.freeCount, byte s.ctx.pinnedCount, byte l.length] ++ l.flatMap (contextItem l)))

/-- A use request's claim is filed under the channel's claimant (R127). -/
def State.fileUse (s : State) (ch : Chan) (c : Claim) : State := (s.setWork ch .use).fileClaim (Chan.claimant ch) c

/-- SIGN (R127 to R129). -/
def execSign (ch : Chan) (s : State) : Result :=
  s.serveWork ch 0x45#8 fun body =>
    match parseSign body with
    | none => s.refuse ch .badArgument
    | some (h, d) => s.fileUse ch (.signCtx h d)

/-- DERIVE (R127 to R129). -/
def execDerive (ch : Chan) (s : State) : Result :=
  s.serveWork ch 0x46#8 fun body =>
    match parseDerive body with
    | none => s.refuse ch .badArgument
    | some (h, info) => s.fileUse ch (.deriveCtx h info)

/-- RELEASE SECRET (R127 to R129). -/
def execReleaseSecret (ch : Chan) (s : State) : Result :=
  s.serveWork ch 0x47#8 fun body =>
    match parseRelease body with
    | none => s.refuse ch .badArgument
    | some h => s.fileUse ch (.releaseCtx h)

end Sys2Proof.Machine
end

