-- ==== Sys2Proof/Machine/MeasReq.lean ====
section
/-! DEFINITION. EXTEND, READ LANES, READ LOG and QUOTE (chapter 8). -/
namespace Sys2Proof.Machine

/-- Check 2 of R139 and R140: channel S extends lanes 0..3, channel A lanes 4..7. -/
def laneOf (ch : Chan) (lane : Nat) : Bool :=
  match ch with
  | .S => lane < 4
  | .A => 4 ≤ lane

/-- EXTEND at its take (R139, R140); the last checks of both are those made again at the grant. -/
def State.extend (s : State) (ch : Chan) (a : ExtendArgs) : State :=
  if !laneOf ch a.lane then s.refuse ch .notPermitted
  else
    match s.extendRefusal ch with
    | some st => s.refuse ch st
    | none => (s.setWork ch .extend).fileClaim (Chan.claimant ch) (.extendReq a.lane a.digest a.label)

/-- EXTEND (R139 to R141). -/
def execExtend (ch : Chan) (s : State) : Result :=
  s.serveWork ch 0x50#8 fun body =>
    match parseExtend body with
    | none => s.refuse ch .badArgument
    | some a => s.extend ch a

/-- READ LANES (R145). -/
def execReadLanes (ch : Chan) (s : State) : Result :=
  s.serve ch 0x51#8 fun body =>
    s.emptyBody ch body (s.reply ch .ok ((List.range 8).flatMap s.meas.lane ++ [byte s.meas.log.length]))

/-- One entry of READ LOG (R146). -/
def logItem (index : Nat) (e : LogEntry) : Bytes :=
  [byte index, byte e.lane, e.source.code, byte e.label.length] ++ e.label ++ e.digest

/-- The entries of READ LOG with their indices (R146). -/
def Meas.logItems (m : Meas) (first count : Nat) : List Bytes :=
  (List.range count).filterMap fun i => (m.log[first + i]?).map fun e => logItem (first + i) e

/-- READ LOG (R146). -/
def execReadLog (ch : Chan) (s : State) : Result :=
  s.serve ch 0x52#8 fun body =>
    match parseReadLog body with
    | none => s.refuse ch .badArgument
    | some (first, count) =>
      let l := s.meas.logItems first count
      s.reply ch .ok ([byte s.meas.log.length, byte l.length] ++ l.flatten)

/-- QUOTE (R147). -/
def execQuote (ch : Chan) (s : State) : Result :=
  s.serveWork ch 0x53#8 fun body =>
    match parseQuote body with
    | none => s.refuse ch .badArgument
    | some (nonce, mask) =>
      if s.ota.lifecycle = .sealed then
        (s.setWork ch .quoteDigest).fileClaim (Chan.claimant ch) (.digestQuote nonce mask)
      else s.refuse ch .wrongState

end Sys2Proof.Machine
end

