-- ==== Sys2Proof/Machine/BootReq.lean ====
section
/-! DEFINITION. READ BOOT STATE, RELEASE RECOVERY, RESTART PLATFORM and SELECT BANK (chapter 9, R168 to R172; R13, R34, R79,
R109, R134, R151, R184, R190 at a platform restart). -/
namespace Sys2Proof.Machine

/-- An OWNER RESET is in progress on channel S (R118, R167). -/
def State.ownerResetRuns (s : State) : Bool :=
  match s.work .S with
  | .resetEpoch | .resetWalk _ _ _ _ => true
  | _ => false

/-- A passed release waits for an OWNER RESET reply (R172). -/
def State.releaseHeld (s : State) : Bool :=
  match s.boot.stage with
  | .releaseReady .normal _ | .releaseClosing .normal _ => s.ownerResetRuns
  | _ => false

/-- The check in progress as READ BOOT STATE gives it (R172). That the bytes remaining take 4 bytes is the model's reading (log
18); the segment index outside HASHING is its choice (log 47). -/
def State.checkBytes (s : State) : Option Bytes :=
  let c := s.checker
  if c.work = .boot then some ([c.bank.code, c.state.code, byte c.segIndex] ++ be 4 c.descRem) else none

/-- The factory floor outcomes, once all three are known (R160, R172, log 39). R172 gives 'OK or OTP_FAULT with the value reached': that
each outcome is its status byte, then the value byte, after OK as after OTP_FAULT and with no presence byte, is the model's reading
(log 49). -/
def Boot.factoryBytes (b : Boot) : Option Bytes :=
  if b.factory.length = 3 then some (b.factory.flatMap fun o => [o.status.code, byte o.value]) else none

/-- The body of READ BOOT STATE (R172, R191). That the pass record status is absent until the job has its outcome is the model's
reading (log 43). -/
def State.bootStateBody (s : State) : Bytes :=
  let b := s.boot
  [b.state.code, b.mode.code, bankCode b.booted] ++ bootRecPayload b.record ++ optBytes s.checkBytes
    ++ [flagByte s.releaseHeld, b.reason0.code, b.reason1.code] ++ optBytes (b.passStatus.map fun st => [st.code])
    ++ optBytes b.factoryBytes

/-- READ BOOT STATE (R172). -/
def execReadBootState (ch : Chan) (s : State) : Result :=
  s.serve ch 0x60#8 fun body => s.emptyBody ch body (s.reply ch .ok s.bootStateBody)

/-- RELEASE RECOVERY (R168, R143). -/
def execReleaseRecovery (s : State) : Result :=
  s.serveWork .S 0x61#8 fun body =>
    s.emptyBody .S body
      (if (s.boot.state = .waiting ∨ s.boot.state = .bootFailed) ∧ s.ota.lifecycle ≠ .failed then
        (s.setWork .S .recoveryMarker).fileClaim .S .extendRecovery
       else s.refuse .S .wrongState)

/-! ### Platform restart (R170) -/

/-- The line at the closing of channel A (R13). -/
def Line.closeA : Line → Line
  | .write .A _ => .ignoring
  | .readReply .A _ => .readReleased
  | l => l

/-- The engine at a platform restart: claim A withdrawn, the order reset, a running job of A discarded at its end (R34), and a
composite of channel S marked as taken before the lanes were cleared (R122). -/
def Engine.restart (e : Engine) : Engine :=
  { e with
    claimA := none, order := [.S, .A, .F],
    running := e.running.map fun r =>
      { r with dropped := r.dropped || r.who == .A,
               job := match r.job with
                 | .finishDigest (.composite slot gen rec _) st f => .finishDigest (.composite slot gen rec true) st f
                 | j => j } }

/-- The store at a platform restart (R79): untaken jobs of channel A leave the FIFO, filers of channel A stop waiting, the taken
job of channel A loses its request. `boot` says whether the boot controller's waiting change is channel A's. -/
def Store.restart (st : Store) (bootA : Bool) : Store :=
  { st with
    fifo := st.fifo.filter fun j => j.chan != some .A,
    waiters := st.waiters.filter fun w =>
      match w with
      | .job j => j.chan != some .A
      | .boot => !bootA,
    taken := st.taken.map fun t => if t.job.chan = some .A then { t with job := { t.job with orphan := true } } else t }

/-- A change is the first step of a confirmation. -/
def Change.isConfirm : Change → Bool
  | .confirmBank _ _ _ => true
  | .trialsOut _ | .trialInc _ | .reject _ | .passed _ _ _ _ | .select _ | .claiming _ | .commitAdm _ _ _
  | .confirmReject _ => false

/-- The boot controller's changes at a platform restart (R153, R190). `taken`: its job has been taken. -/
def Boot.restartChanges (b : Boot) (taken : Bool) : Boot :=
  let kept := taken || b.active.any fun a => a.asked.change.chan != some .A
  let cut := b.changes.any (fun a => a.change.isConfirm)
    || b.active.any fun a => a.asked.change.isConfirm && !taken
  { b with
    changes := b.changes.filter fun a => a.change.chan != some .A,
    active := if kept then b.active.map fun a => { a with asked := { a.asked with live := a.asked.change.chan != some .A } }
              else none,
    confirm := if cut then none else b.confirm.map fun c => { c with live := false } }

/-- Channel A is closed (R13): step 1 of a restart. -/
def State.closeA (s : State) : State :=
  let taken := s.store.taken.any fun t => t.job.filer == .boot
  let bootA := s.boot.active.any fun a => a.asked.change.chan == some .A
  { s with
    link := { s.link with line := s.link.line.closeA },
    chA := Channel.reset,
    engine := s.engine.restart,
    store := s.store.restart bootA,
    ctx := s.ctx.invalidate (·.owner == .A),
    boot := s.boot.restartChanges taken }

/-- An admission is in progress (R174). -/
def AdmState.running : AdmState → Bool
  | .claiming | .reading | .checking | .hashing | .committing => true
  | .idle | .passed | .failed => false

/-- Work of claimant F in flight is carried to its end and dropped (R181, R184). -/
def State.dropF (s : State) : State :=
  { s with
    checker := { s.checker with flash := s.checker.flash.map fun f => { f with dropped := true } },
    engine := { s.engine with
      claimF := s.engine.claimF.map fun p => { p with dropped := true },
      running := s.engine.running.map fun r => { r with dropped := r.dropped || r.who == .F } } }

/-- The admission at a restart (R184). -/
def Checker.restart (c : Checker) : Checker :=
  if c.adm.running then
    { c.discard with adm := .failed, admReason := some .aborted, claimed := false, result := none }
  else { c.discard with adm := .idle, admBank := none, admReason := none, claimed := false, result := none }

/-- Lanes zero, log empty, the context table told once (R151). -/
def State.clearLanes (s : State) : State :=
  { s with meas := { s.meas with lanes := List.replicate 8 zeros32, log := [] } }.invalidate (·.mask != 0#8)

/-- A boot phase begins with its waits (R155, R170 step 6). -/
def State.enterPhase (s : State) : State :=
  { s with meas := { s.meas with bootOpen := true } }.mapBoot fun b =>
    { b with stage := .phaseWait, state := .verifying, mode := .none, booted := none }

/-- The steps of a platform restart (R170); an attempt whose pre-charge is untaken is undone with its request (R109). -/
def State.restart (s : State) : State :=
  let s := { s.undoAttempt.closeA with hold := true }
  let s := s.dropF.mapChecker (·.restart)
  let s := s.endGrant.clearLanes
  (s.mapChecker fun c => { c with fown := true }).enterPhase

/-- RESTART PLATFORM (R170): one made on channel A has no reply. -/
def execRestartPlatform (ch : Chan) (s : State) : Result :=
  s.serveWork ch 0x62#8 fun body =>
    s.emptyBody ch body
      (if s.inBootPhase then s.refuse ch .wrongState
       else
        match ch with
        | .S =>
          let t := s.restart
          t.reply .S .ok [t.boot.state.code]
        | .A => s.restart)

/-! ### SELECT BANK (R171) -/

/-- The bank may not be named: it is the booted bank in NORMAL mode (R171, R175). -/
def State.isBooted (s : State) (b : Bank) : Bool := s.boot.mode == .normal && s.boot.booted == some b

/-- A request's body that is one bank number. -/
def parseBank (body : Bytes) : Option Bank :=
  match body with
  | [b] => Bank.ofCode b
  | _ => none

/-- SELECT BANK (R171). -/
def execSelectBank (s : State) : Result :=
  s.serveWork .A 0x63#8 fun body =>
    match parseBank body with
    | none => s.refuse .A .badArgument
    | some b =>
      if s.isBooted b then s.refuse .A .badArgument
      else if (s.boot.record.bank b).state ≠ .admitted then s.refuse .A .wrongState
      else if s.ota.belowFloor (s.boot.record.bank b).epochs then s.refuse .A .rollback
      else if s.boot.record.preferred = b then s.refuse .A .ok
      else (s.setWork .A .selectBank).ask (.select b)

end Sys2Proof.Machine
end

