-- ==== Sys2Proof/Machine/AdmReq.lean ====
section
/-! DEFINITION. ADMIT BANK, ADMISSION STATUS, ABORT ADMISSION and CONFIRM BOOT (chapter 10). -/
namespace Sys2Proof.Machine

/-- An admission of a bank starts (R175, R176): CLAIMING, and its change is asked for. -/
def State.startAdmission (s : State) (b : Bank) : State :=
  (s.mapChecker fun c =>
    { c.begin .admission b with adm := .claiming, admBank := some b, admReason := none, result := none,
                                claimed := false }).ask (.claiming b)

/-- ADMIT BANK (R175). -/
def execAdmitBank (s : State) : Result :=
  s.serveWork .A 0x70#8 fun body =>
    match parseBank body with
    | none => s.refuse .A .badArgument
    | some b =>
      if s.boot.state ≠ .released then s.refuse .A .wrongState
      else if s.checker.adm.running then s.refuse .A .busy
      else if s.isBooted b then s.refuse .A .badArgument
      else (s.startAdmission b).refuse .A .accepted

/-- The epochs and the digest of an admission's manifest as reported (R180). -/
def Checker.manifestReport (c : Checker) : Option Bytes :=
  match c.adm with
  | .checking | .hashing | .committing => some (epochsBytes (manifestEpochs c.manifest) ++ optBytes c.manDigest)
  | .passed => c.result.map fun r => epochsBytes r.epochs ++ optBytes (some r.digest)
  | .idle | .claiming | .reading | .failed => none

/-- The segment index as reported (R180). -/
def Checker.segmentReport (c : Checker) : Option Bytes :=
  match c.adm with
  | .hashing => some [byte c.segIndex]
  | .passed => c.result.map fun r => [byte r.segs]
  | .idle | .claiming | .reading | .checking | .committing | .failed => none

/-- The body of ADMISSION STATUS (R180, R191). That the bytes remaining take 4 bytes is the model's reading (log 18). That 'flash held' is
no outside RELEASED, where a FOWN left asserted by an aborted admission (R184) is held by the boot phase (R161), is the model's reading
(log 48). -/
def State.admissionBody (s : State) : Bytes :=
  let c := s.checker
  c.adm.code :: optBytes ((if c.adm = .failed then c.admReason else none).map fun r => [r.code])
    ++ bankCode c.admBank :: optBytes c.segmentReport
    ++ optBytes (if c.adm = .hashing then some (be 4 c.descRem) else none) ++ optBytes c.manifestReport
    ++ [flagByte (c.fown && s.boot.state == .released)]

/-- ADMISSION STATUS (R180). -/
def execAdmissionStatus (ch : Chan) (s : State) : Result :=
  s.serve ch 0x71#8 fun body => s.emptyBody ch body (s.reply ch .ok s.admissionBody)

/-- The last part of an abort (R181): FOWN is deasserted, ADMISSION_DONE is raised, then the reply is placed. -/
def State.finishAbort (s : State) (prev : AdmState) : State :=
  ((s.mapChecker fun c => { c with fown := false }).raise .A .admissionDone).reply .A .ok [prev.code]

/-- A CLAIMING change whose admission has ended has no asker any more (R181). -/
def Asked.dropClaim (a : Asked) : Asked :=
  match a.change with
  | .claiming _ => { a with live := false }
  | .trialsOut _ | .trialInc _ | .reject _ | .passed _ _ _ _ | .select _ | .commitAdm _ _ _ | .confirmBank _ _ _
  | .confirmReject _ => a

/-- An admission is aborted (R181). -/
def State.abortAdmission (s : State) : State :=
  let prev := s.checker.adm
  let s := s.dropF.mapBoot fun b =>
    { b with changes := b.changes.map Asked.dropClaim,
             active := b.active.map fun a => { a with asked := a.asked.dropClaim } }
  let s := s.mapChecker fun c =>
    { c.discard with adm := .failed, admReason := some .aborted, claimed := false, result := none }
  if s.checker.flash.isSome then s.setWork .A (.abortWait prev) else s.finishAbort prev

/-- ABORT ADMISSION (R181, R182). -/
def execAbortAdmission (s : State) : Result :=
  s.serveWork .A 0x72#8 fun body =>
    s.emptyBody .A body
      (match s.checker.adm with
       | .claiming | .reading | .checking | .hashing => s.abortAdmission
       | .committing | .passed | .failed | .idle => s.reply .A .wrongState [s.checker.adm.code])

/-- The reply of CONFIRM BOOT for a bank that is already ADMITTED (R186 check 2). That the booted bank's state comes before the other
bank's is the model's reading (log 38). -/
def State.alreadyConfirmed (s : State) (b : Bank) : State :=
  s.reply .A .ok
    ([byte s.ota.loader, Status.ok.code, byte s.ota.system, Status.ok.code, byte s.ota.radio, Status.ok.code]
      ++ [(s.boot.record.bank b).state.code, (s.boot.record.bank b.other).state.code])

/-- A confirmation begins with its first change (R186, R187). -/
def State.startConfirm (s : State) (b : Bank) : State :=
  let r := s.boot.record.bank b
  let p := s.boot.bootedPass.getD { epochs := r.epochs, digest := r.digest }
  ((s.setWork .A .confirm).mapBoot fun bt =>
    { bt with confirm := some { bank := b, epochs := p.epochs, outs := [], live := true } }).ask
      (.confirmBank b p.epochs p.digest)

/-- CONFIRM BOOT (R186 to R189). -/
def execConfirmBoot (s : State) : Result :=
  s.serveWork .A 0x73#8 fun body =>
    s.emptyBody .A body
      (match s.boot.state, s.boot.mode, s.boot.booted with
       | .released, .normal, some b =>
         match (s.boot.record.bank b).state with
         | .admitted => s.alreadyConfirmed b
         | .trial => s.startConfirm b
         | .unknown | .rejected => s.reply .A .wrongState [(s.boot.record.bank b).state.code]
       | _, _, _ => s.refuse .A .wrongState)

end Sys2Proof.Machine
end

