-- ==== Sys2Proof/Machine/EngineEvents.lean ====
section
/-! DEFINITION. The ends of the engine's jobs (chapter 2). Each ends the running job of its kind, hands its result back, and the
arbiter then grants (R31); an end of a job that is not running changes nothing (log 2). -/
namespace Sys2Proof.Machine

/-- The running job has ended: the engine is free. Its result goes to `f` unless it is to be discarded (R34, R181). -/
def State.jobEnd (s : State) (r : Running) (f : State → State) : Result :=
  let s := s.mapEngine fun e => { e with running := none }
  .next (if r.dropped then s.settle else (f s).settle)

/-- HASH_CHUNK_END (R24, R165). -/
def execHashChunkEnd (s : State) : Result :=
  match s.engine.running with
  | some r =>
    match r.job with
    | .hashChunk st bytes => s.jobEnd r fun s => s.chunkHashed (st.feed bytes) bytes.length
    | _ => .next s
  | none => .next s

/-- FINISH_DIGEST_END (R24, R25). -/
def execFinishDigestEnd (s : State) : Result :=
  match s.engine.running with
  | some r =>
    match r.job with
    | .finishDigest p st final => s.jobEnd r fun s => s.digestEnded r.who p (st.feed final).finish
    | _ => .next s
  | none => .next s

/-- EXTEND_JOB_END (R138). -/
def execExtendJobEnd (s : State) : Result :=
  match s.engine.running with
  | some r =>
    match r.job with
    | .extend lane v d l src => s.jobEnd r fun s => s.extendEnded r.who.chan lane v d l src
    | _ => .next s
  | none => .next s

/-- VERIFY_SIGNATURE_END (R26, R164). -/
def execVerifySignatureEnd (s : State) : Result :=
  match s.engine.running with
  | some r =>
    match r.job with
    | .verifySig key d sig => s.jobEnd r fun s => s.signatureChecked (verifySignature key d sig)
    | _ => .next s
  | none => .next s

/-- SIGN_JOB_END (R26, R129, R149). -/
def execSignJobEnd (s : State) : Result :=
  match s.engine.running with
  | some r =>
    match r.job with
    | .sign scalar d => s.jobEnd r fun s => s.signEnded r.who.chan (signatureOf scalar d)
    | _ => .next s
  | none => .next s

/-- DERIVE_JOB_END (R28, R129). -/
def execDeriveJobEnd (s : State) : Result :=
  match s.engine.running with
  | some r =>
    match r.job with
    | .derive key info => s.jobEnd r fun s => s.reply r.who.chan .ok (deriveOf key info)
    | _ => .next s
  | none => .next s

/-- STRETCH_END (R28, R107, R108, R115). -/
def execStretchEnd (s : State) : Result :=
  match s.engine.running with
  | some r =>
    match r.job with
    | .stretch salt cand => s.jobEnd r fun s => s.stretchEnded (stretchOf salt cand)
    | _ => .next s
  | none => .next s

/-- A KEYGEN job that draws has failed its health test: RNG_FAULT (R29). -/
def State.keygenFault (s : State) (ch : Chan) : State := s.refuse ch .rngFault

/-- KEYGEN_END (R27, R29). A draw for a signing key in which no value lies in 1..n-1 goes on drawing, so the job has not ended
(log 10). -/
def execKeygenEnd (healthy : Bool) (draws : List Bytes) (s : State) : Result :=
  match s.engine.running with
  | some r =>
    match r.job with
    | .keygen (.attestation seed) => s.jobEnd r fun s => s.attestGenerated seed
    | .keygen .linkKey =>
      s.jobEnd r fun s =>
        if healthy then s.keyGenerated r.who.chan (drawOf draws) none else s.keygenFault r.who.chan
    | .keygen .deviceSeed =>
      s.jobEnd r fun s => if healthy then s.seedGenerated (drawOf draws) else s.keygenFault .S
    | .keygen .signingKey =>
      if healthy then
        match scalarOf draws with
        | none => .next s
        | some d =>
          let pub := publicKey d
          s.jobEnd r fun s => s.keyGenerated r.who.chan (d ++ pub) (some pub)
      else s.jobEnd r fun s => s.keygenFault r.who.chan
    | _ => .next s
  | none => .next s

/-- RANDOM_END (R29, R115). -/
def execRandomEnd (healthy : Bool) (drawn : Bytes) (s : State) : Result :=
  match s.engine.running with
  | some r =>
    match r.job with
    | .random n => s.jobEnd r fun s => s.randomEnded healthy (fit n 0#8 drawn)
    | _ => .next s
  | none => .next s

end Sys2Proof.Machine
end

