-- ==== Sys2Proof/Machine/StoreEvents.lean ====
section
/-! DEFINITION. The ends of the store's array operations and of the one-time array's programming steps (chapters 3 and 4). An
end of an operation that is not in progress changes nothing (log 2). -/
namespace Sys2Proof.Machine

/-- PAGE_PROGRAM_DONE (R53, R65, R66). -/
def execPageProgramDone (bad : Option Bytes) (s : State) : Result :=
  match s.store.op with
  | some (.program page bytes) => .next (s.programDone page bytes bad).settle
  | _ => .next s

/-- PAGE_VOID_DONE (R53, R66, R69). -/
def execPageVoidDone (bad : Option Word) (s : State) : Result :=
  match s.store.op with
  | some (.void page) => .next (s.voidDone page bad).settle
  | some (.copyVoid page) => .next (s.copyVoidDone page bad).settle
  | _ => .next s

/-- COPY_PROGRAM_DONE (R69). -/
def execCopyProgramDone (bad : Option Bytes) (s : State) : Result :=
  match s.store.op with
  | some (.copy src dst bytes) => .next (s.copyDone src dst bytes bad).settle
  | _ => .next s

/-- BLOCK_ERASE_DONE (R70, R71). -/
def execBlockEraseDone (left : List (Nat × Byte)) (s : State) : Result :=
  match s.store.op with
  | some (.erase b) => .next (s.eraseDone b left).settle
  | _ => .next s

/-- RECOVERY_ERASE_DONE (R61, R71). -/
def execRecoveryEraseDone (left : List (Nat × Byte)) (s : State) : Result :=
  match s.store.op with
  | some (.recoveryErase b) => .next (s.eraseDone b left).settle
  | _ => .next s

/-- OTA_BYTE_PROGRAMMED (R35, R46 to R48). -/
def execOtaByteProgrammed (stuck : Byte) (s : State) : Result :=
  match s.ota.current with
  | some ⟨.identity c, pos⟩ => .next (s.byteProgrammed (.identity c) pos stuck).settle
  | some ⟨.keys seed, pos⟩ => .next (s.byteProgrammed (.keys seed) pos stuck).settle
  | some ⟨.root e d, pos⟩ => .next (s.byteProgrammed (.root e d) pos stuck).settle
  | _ => .next s

/-- COUNTER_BIT_PROGRAMMED (R42). -/
def execCounterBitProgrammed (ok : Bool) (s : State) : Result :=
  match s.ota.current with
  | some ⟨.advance k target filer, pos⟩ => .next (s.counterProgrammed k target filer pos ok).settle
  | _ => .next s

/-- LOCK_BIT_PROGRAMMED (R49). -/
def execLockBitProgrammed (ok : Bool) (s : State) : Result :=
  match s.ota.current with
  | some ⟨.seal, pos⟩ => .next (s.lockProgrammed pos ok).settle
  | _ => .next s

/-- RETIRE_BIT_PROGRAMMED (R43, R71). -/
def execRetireBitProgrammed (ok : Bool) (s : State) : Result :=
  match s.ota.current with
  | some ⟨.retire b, _⟩ => .next (s.retireProgrammed b ok).settle
  | _ => .next s

end Sys2Proof.Machine
end

