-- ==== Sys2Proof/Machine/FlashEvents.lean ====
section
/-! DEFINITION. Uptime, the idle expiry of the owner grant, the ends of the flash reads, the boot phase and the release
(chapters 6, 9 and 10). -/
namespace Sys2Proof.Machine

/-! ### Uptime and the idle check (R99, R112) -/

/-- The grant has been idle for setting 4 or longer (R112). -/
def State.grantIdle (s : State) : Bool :=
  s.owner.grant.any fun g => s.settings.ownerIdle ≤ s.owner.uptime - g.lastUse

/-- UPTIME_TICK (R99): the clock advances, and the idle check finds whether the grant expires (R112, log 17). -/
def execUptimeTick (s : State) : Result :=
  if s.power = .running ∧ s.owner.uptime < topWord then
    let s := if s.owner.idleDue && s.grantIdle then s.endGrant else s
    let s := { s with owner := { s.owner with uptime := s.owner.uptime + 1 } }
    .next { s with owner := { s.owner with idleDue := s.grantIdle } }
  else .next s

/-- OWNER_GRANT_IDLE_EXPIRY (R112, R111): the expiry that the last check found. A judgment taken before it has refreshed the
grant, and there is then no expiry. -/
def execOwnerGrantIdleExpiry (s : State) : Result :=
  if s.owner.idleDue then
    if s.grantIdle then .next s.endGrant else .next { s with owner := { s.owner with idleDue := false } }
  else .next s

/-! ### Flash reads (R161 to R165, R181) -/

/-- A flash read whose bytes are dropped has ended: an abort that waited for it is finished (R181). -/
def State.droppedRead (s : State) : State :=
  match s.work .A with
  | .abortWait prev => s.finishAbort prev
  | _ => s

/-- A flash read has ended: its bytes go to `f`, unless they are to be dropped. -/
def State.readEnd (s : State) (r : FlashBusy) (f : State → State) : Result :=
  let s := s.mapChecker fun c => { c with flash := none }
  .next (if r.dropped then s.droppedRead.settle else (f s).settle)

/-- The three identification bytes show no flash (R162). -/
def noFlash (b0 b1 b2 : Byte) : Bool :=
  (b0 == 0#8 && b1 == 0#8 && b2 == 0#8) || (b0 == 0xFF#8 && b1 == 0xFF#8 && b2 == 0xFF#8)

/-- The identification read has ended (R162): FLASH_FAULT, the overlap test of bank 1, or the manifest read. -/
def State.identified (s : State) (b0 b1 b2 : Byte) : State :=
  if noFlash b0 b1 b2 then s.checkFailed .flashFault
  else if s.checker.bank = .b1 ∧ s.boot.phaseCopy.overlap = true then s.checkFailed .badManifest
  else s.startRead .manifest

/-- FLASH_ID_READ_DONE (R162). -/
def execFlashIdReadDone (b0 b1 b2 : Byte) (s : State) : Result :=
  match s.checker.flash with
  | some r => if r.read = .id then s.readEnd r fun s => s.identified b0 b1 b2 else .next s
  | none => .next s

/-- The manifest bytes that the checker keeps of what the flash returned: as many as the header's count gives (R163). -/
def manifestOf (bytes : Bytes) : Bytes := fit (manifestLength bytes) 0xFF#8 bytes

/-- The manifest read has ended (R163): the structure tests, then CHECKING and the claim for the manifest digest (R164). -/
def State.manifestRead (s : State) (bytes : Bytes) : State :=
  let header := fit 10 0xFF#8 bytes
  if goodHeader header && goodManifest (s.boot.phaseCopy.base s.checker.bank) s.boot.phaseCopy.size (manifestOf bytes) then
    (s.mapChecker fun c => { c.setStep .checking with manifest := manifestOf bytes }).fileClaim .F .digestManifest
  else s.checkFailed .badManifest

/-- MANIFEST_READ_DONE (R163). -/
def execManifestReadDone (bytes : Bytes) (s : State) : Result :=
  match s.checker.flash with
  | some r => if r.read = .manifest then s.readEnd r fun s => s.manifestRead bytes else .next s
  | none => .next s

/-- CHUNK_READ_DONE (R165): the chunk is in the buffer and its HASH_CHUNK is claimed. -/
def execChunkReadDone (bytes : Bytes) (s : State) : Result :=
  match s.checker.flash with
  | some r =>
    match r.read with
    | .chunk n =>
      s.readEnd r fun s => (s.mapChecker fun c => { c with chunk := fit n 0xFF#8 bytes }).fileClaim .F .hashChunk
    | .id | .manifest => .next s
  | none => .next s

/-! ### Boot phase and release (R136, R155, R167, R168) -/

/-- The waits of R155 are over: no boot record job is taken and no confirmation is carried on. -/
def State.phaseReady (s : State) : Bool :=
  !(s.store.taken.any fun t => t.job.filer == .boot) && s.boot.confirm.isNone

/-- The steps that begin a boot phase (R155). -/
def State.beginPhase (s : State) : State :=
  let s := s.mapBoot fun b =>
    { b with
      reason0 := .none, reason1 := .none, factory := [], passStatus := none, bootedPass := none, mode := .none,
      booted := none, tried0 := false, tried1 := false, assumed := none,
      phaseCopy := { base0 := s.settings.bank0Base, base1 := s.settings.bank1Base, size := s.settings.bankSize } }
  if s.ota.lifecycle = .failed ∨ s.ota.rootCount = 0 then s.mapBoot fun b => { b with stage := .waiting, state := .waiting }
  else s.bankChoice

/-- BOOT_PHASE_BEGIN (R155). -/
def execBootPhaseBegin (s : State) : Result :=
  if s.boot.stage = .phaseWait ∧ s.phaseReady = true then .next s.beginPhase.settle else .next s

/-- A running EXTEND job of a boot lane holds the close of the boot lanes back (R136). -/
def State.bootExtendRuns (s : State) : Bool :=
  s.engine.running.any fun r =>
    match r.job with
    | .extend lane _ _ _ _ => lane < 4
    | _ => false

/-- The reply of RELEASE RECOVERY (R168). -/
def State.recoveryReply (s : State) : State :=
  match s.work .S with
  | .recoveryRelease => s.reply .S .ok [s.boot.state.code, s.boot.mode.code]
  | _ => s

/-- Channel A opens: IDLE, no events, its grant set from setting 7 (R12, R15). -/
def State.openA (s : State) : State :=
  { s with chA := { Channel.reset with state := .idle, grants := BitVec.ofNat 6 s.settings.grantsA } }

/-- A release once the close of the boot lanes can be taken: steps 2 to 6 of R167, and the reply of RELEASE RECOVERY. -/
def State.finishRelease (s : State) (m : BootMode) (b : Option Bank) : State :=
  let s := { s with meas := { s.meas with bootOpen := false } }.openA
  let s := { s with hold := false }.mapBoot fun bt =>
    { bt with stage := .released, state := .released, mode := m, booted := b }
  (s.raise .S .bootDone).recoveryReply

/-- A release in a mode waits for the reply of an OWNER RESET (R167, R118): only one reached by a pass. -/
def State.releaseWaits (s : State) (m : BootMode) : Bool := m == .normal && s.ownerResetRuns

/-- What every release finds: the part runs, and channel A, which the release opens, is CLOSED (R12). In another state there is no
release to make (log 2). -/
def State.beforeOpening (s : State) : Bool := s.power == .running && s.chA.state == .closed

/-- RELEASE (R167, log 16): FOWN is deasserted; the release is finished, or waits for the running EXTEND job. -/
def execRelease (s : State) : Result :=
  match s.boot.stage with
  | .releaseReady m b =>
    if !s.beforeOpening || s.releaseWaits m then .next s
    else
      let s := s.mapChecker fun c => { c with fown := false }
      if s.bootExtendRuns then .next (s.mapBoot fun bt => { bt with stage := .releaseClosing m b })
      else .next (s.finishRelease m b).settle
  | _ => .next s

/-- BOOT_LANES_CLOSE (R136, R167): the close that waited for an EXTEND job is taken after its end, and the release goes on. -/
def execBootLanesClose (s : State) : Result :=
  match s.boot.stage with
  | .releaseClosing m b =>
    if !s.beforeOpening || s.bootExtendRuns || s.releaseWaits m then .next s else .next (s.finishRelease m b).settle
  | _ => .next s

end Sys2Proof.Machine
end

