-- ==== Sys2Proof/Machine/Resets.lean ====
section
/-! DEFINITION. Power, pin reset and the start-up load (R14, R35, R50 to R53, R78). -/
namespace Sys2Proof.Machine

/-! ### What a cut leaves in the arrays (R35, R53, R78) -/

/-- The one-time cells after the programming step in progress is cut: each cell of the step cleared or still set (R35). -/
def Ota.afterCut (o : Ota) (cut : Cut) : Cells :=
  match o.current with
  | none => o.cells
  | some r =>
    let done := !cut.cells.getLsbD 0
    match r.op with
    | .advance k _ _ => o.cells.clearCounter k r.pos done
    | .seal => { o.cells with locks := if done then o.cells.locks ||| (1#5 <<< (2 - r.pos)) else o.cells.locks }
    | .retire b => { o.cells with retired := clearBit o.cells.retired b done }
    | .identity _ | .keys _ | .root _ _ =>
      match r.op.byteAt r.pos with
      | none => o.cells
      | some v => o.cells.prog r.op r.pos v cut.cells

/-- A page cut while it is programmed: each bit as intended or still erased (R53). -/
def cutPage (intended mask : Bytes) : Bytes :=
  List.zipWith (· ||| ·) (fit 256 Mem.erased intended) (fit 256 Mem.erased mask)

/-- A block cut while it is erased: the pages below the cut erased, the page at the cut with each bit as it was or erased, the
pages above it as they were (R53). -/
def cutErase (m : List Host.Cell) (block pages : Nat) (mask : Bytes) : List Host.Cell :=
  let m := Mem.clear m (4096 * block) (4096 * block + 256 * min pages 16)
  if pages < 16 then
    let p := 16 * block + pages
    Mem.setPage m p (List.zipWith (· ||| ·) (Mem.readPage m p) (fit 256 0#8 mask))
  else m

/-- The store array after the operation in progress is cut (R53, R78). -/
def Store.afterCut (st : Store) (cut : Cut) : List Host.Cell :=
  match st.op with
  | none => st.mem
  | some (.program p bytes) => Mem.setPage st.mem p (cutPage bytes cut.page)
  | some (.copy _ d bytes) => Mem.setPage st.mem d (cutPage bytes cut.page)
  | some (.void p) => voidGen st.mem p (some cut.gen)
  | some (.copyVoid p) => voidGen st.mem p (some cut.gen)
  | some (.erase b) => cutErase st.mem b cut.pages cut.page
  | some (.recoveryErase b) => cutErase st.mem b cut.pages cut.page

/-- Every block reset: what is left are the cells of the one-time area and of the store, the given guard, the recovery button and
the commands that wait (R14, R52, R78). -/
def State.resetAll (s : State) (power : Power) (guard : Guard) (cut : Cut) : State :=
  { State.reset with
    power := power, rcv := s.rcv, ota := Ota.reset (s.ota.afterCut cut), store := Store.reset (s.store.afterCut cut),
    guard := guard, pending := s.pending }

/-- POWER_ON (R14, R52, R75): a part that was still powered is cut first (log 31). -/
def execPowerOn (cut : Cut) (s : State) : Result := .next (s.resetAll .inReset Guard.powerOn cut)

/-- PIN_RESET (R14, R52): RST_N is asserted; the slot guard is kept (R75). -/
def execPinReset (cut : Cut) (s : State) : Result :=
  if s.power = .off then .next s else .next (s.resetAll .inReset s.guard cut)

/-- POWER_LOSS (R52, R53, R75). -/
def execPowerLoss (cut : Cut) (s : State) : Result :=
  if s.power = .off then .next s else .next (s.resetAll .off Guard.powerOn cut)

/-- PIN_RESET_RELEASE (R50): RST_N is released, or power-on completes, and the start-up load begins. -/
def execPinResetRelease (s : State) : Result :=
  if s.power = .inReset then .next { s with power := .loading } else .next s

/-! ### The start-up load (R50) -/

/-- The settings that the scan found (R21, R50 step 5). -/
def Store.settings (st : Store) : Settings :=
  match st.liveRec 0 with
  | none => Settings.defaults
  | some r => settingsOf r.payload

/-- The boot record that the scan found (R152, R192). -/
def Store.bootRecord (st : Store) : BootRec :=
  match st.liveRec 255 with
  | none => BootRec.empty
  | some r => bootRecOf r.payload

/-- The hold-off entry that the load makes for a verifier (R101). -/
def loadedHold (slot : Nat) (r : Rec) : HoldEntry :=
  let p := verifierParams r.payload
  let f := verifierCount r.payload
  { slot := slot, count := f, holdUntil := addSat 0 (holdOff p f), lastEvent := 0 }

/-- The hold-off table built from the verifier slots the scan found (R101, R192). -/
def Store.holdTable (st : Store) : List HoldEntry :=
  st.map.filterMap fun e =>
    if userSlot e.slot then
      match st.liveRec e.slot with
      | none => none
      | some r => if goodVerifier r then some (loadedHold e.slot r) else none
    else none

/-- The part at the end of the start-up load: what steps 1 to 6 of R50 load, channel S open with its grant set (R12, R15), and
the waits of the boot phase that begins (R155, log 15). Settings, hold-off table and boot record are read from what the scan found;
the recovery erase of a block set aside begins after them (R61). -/
def State.loaded (s : State) : State :=
  let ota := s.ota.load
  let scan := scanStore s.store.mem ota.cells.retired
  { s with
    power := .running,
    ota := ota,
    engine := { s.engine with attest := if ota.keysExist then some (attestKeyOf ota.cells.seed) else none },
    store := scan.recover,
    settings := scan.store.settings,
    owner := { s.owner with uptime := 0, table := scan.store.holdTable },
    chS := { Channel.reset with state := .idle, grants := 0x03#6 },
    meas := { s.meas with bootOpen := true },
    boot := { s.boot with record := scan.store.bootRecord, stage := .phaseWait, state := .verifying } }

/-- START_UP_LOAD (R50 to R52): the load completes; a compaction that is due then starts (R67). -/
def execStartUpLoad (s : State) : Result :=
  if s.power = .loading then .next s.loaded.settle else .next s

end Sys2Proof.Machine
end

