-- ==== Sys2Proof/Machine/Dispatch.lean ====
section
/-! DEFINITION. The meaning of every command: one arm per constructor. -/
namespace Sys2Proof.Machine

/-- The effect of a command on everything but the queue. -/
def exec (i : Instr) (s : State) : Host.Outcome State Fault Refusal :=
  match i with
  | .powerOn cut => Sys2Proof.Machine.execPowerOn cut s
  | .pinReset cut => Sys2Proof.Machine.execPinReset cut s
  | .pinResetRelease => Sys2Proof.Machine.execPinResetRelease s
  | .startUpLoad => Sys2Proof.Machine.execStartUpLoad s
  | .addressByte b => Sys2Proof.Machine.execAddressByte b s
  | .writeDataByte b => Sys2Proof.Machine.execWriteDataByte b s
  | .frameClose => Sys2Proof.Machine.execFrameClose s
  | .readFrame n ends => Sys2Proof.Machine.execReadFrame n ends s
  | .stuckLineTimerExpiry => Sys2Proof.Machine.execStuckLineTimerExpiry s
  | .identify ch => Sys2Proof.Machine.execIdentify ch s
  | .readEvents ch => Sys2Proof.Machine.execReadEvents ch s
  | .getSetting ch => Sys2Proof.Machine.execGetSetting ch s
  | .setSetting => Sys2Proof.Machine.execSetSetting s
  | .restrictGrants => Sys2Proof.Machine.execRestrictGrants s
  | .writeIdentity => Sys2Proof.Machine.execWriteIdentity s
  | .generateDeviceKeys => Sys2Proof.Machine.execGenerateDeviceKeys s
  | .installRoot => Sys2Proof.Machine.execInstallRoot s
  | .seal => Sys2Proof.Machine.execSeal s
  | .readStoreHealth ch => Sys2Proof.Machine.execReadStoreHealth ch s
  | .setGuard => Sys2Proof.Machine.execSetGuard s
  | .freezeGuard => Sys2Proof.Machine.execFreezeGuard s
  | .writeSlot ch => Sys2Proof.Machine.execWriteSlot ch s
  | .generateKey ch => Sys2Proof.Machine.execGenerateKey ch s
  | .deleteSlot ch => Sys2Proof.Machine.execDeleteSlot ch s
  | .readSlotInfo ch => Sys2Proof.Machine.execReadSlotInfo ch s
  | .verifyOwner => Sys2Proof.Machine.execVerifyOwner s
  | .endOwner => Sys2Proof.Machine.execEndOwner s
  | .setVerifier => Sys2Proof.Machine.execSetVerifier s
  | .readThrottle ch => Sys2Proof.Machine.execReadThrottle ch s
  | .ownerReset rcv => Sys2Proof.Machine.execOwnerReset rcv s
  | .openKey ch => Sys2Proof.Machine.execOpenKey ch s
  | .closeKey ch => Sys2Proof.Machine.execCloseKey ch s
  | .pinKey ch => Sys2Proof.Machine.execPinKey ch s
  | .unpinKey ch => Sys2Proof.Machine.execUnpinKey ch s
  | .listContexts ch => Sys2Proof.Machine.execListContexts ch s
  | .sign ch => Sys2Proof.Machine.execSign ch s
  | .derive ch => Sys2Proof.Machine.execDerive ch s
  | .releaseSecret ch => Sys2Proof.Machine.execReleaseSecret ch s
  | .extend ch => Sys2Proof.Machine.execExtend ch s
  | .readLanes ch => Sys2Proof.Machine.execReadLanes ch s
  | .readLog ch => Sys2Proof.Machine.execReadLog ch s
  | .quote ch => Sys2Proof.Machine.execQuote ch s
  | .readBootState ch => Sys2Proof.Machine.execReadBootState ch s
  | .releaseRecovery => Sys2Proof.Machine.execReleaseRecovery s
  | .restartPlatform ch => Sys2Proof.Machine.execRestartPlatform ch s
  | .selectBank => Sys2Proof.Machine.execSelectBank s
  | .admitBank => Sys2Proof.Machine.execAdmitBank s
  | .admissionStatus ch => Sys2Proof.Machine.execAdmissionStatus ch s
  | .abortAdmission => Sys2Proof.Machine.execAbortAdmission s
  | .confirmBoot => Sys2Proof.Machine.execConfirmBoot s
  | .hashChunkEnd => Sys2Proof.Machine.execHashChunkEnd s
  | .finishDigestEnd => Sys2Proof.Machine.execFinishDigestEnd s
  | .extendJobEnd => Sys2Proof.Machine.execExtendJobEnd s
  | .verifySignatureEnd => Sys2Proof.Machine.execVerifySignatureEnd s
  | .signJobEnd => Sys2Proof.Machine.execSignJobEnd s
  | .deriveJobEnd => Sys2Proof.Machine.execDeriveJobEnd s
  | .stretchEnd => Sys2Proof.Machine.execStretchEnd s
  | .keygenEnd healthy draws => Sys2Proof.Machine.execKeygenEnd healthy draws s
  | .randomEnd healthy drawn => Sys2Proof.Machine.execRandomEnd healthy drawn s
  | .pageProgramDone bad => Sys2Proof.Machine.execPageProgramDone bad s
  | .pageVoidDone bad => Sys2Proof.Machine.execPageVoidDone bad s
  | .copyProgramDone bad => Sys2Proof.Machine.execCopyProgramDone bad s
  | .blockEraseDone left => Sys2Proof.Machine.execBlockEraseDone left s
  | .recoveryEraseDone left => Sys2Proof.Machine.execRecoveryEraseDone left s
  | .otaByteProgrammed stuck => Sys2Proof.Machine.execOtaByteProgrammed stuck s
  | .counterBitProgrammed ok => Sys2Proof.Machine.execCounterBitProgrammed ok s
  | .lockBitProgrammed ok => Sys2Proof.Machine.execLockBitProgrammed ok s
  | .retireBitProgrammed ok => Sys2Proof.Machine.execRetireBitProgrammed ok s
  | .uptimeTick => Sys2Proof.Machine.execUptimeTick s
  | .ownerGrantIdleExpiry => Sys2Proof.Machine.execOwnerGrantIdleExpiry s
  | .flashIdReadDone b0 b1 b2 => Sys2Proof.Machine.execFlashIdReadDone b0 b1 b2 s
  | .manifestReadDone bytes => Sys2Proof.Machine.execManifestReadDone bytes s
  | .chunkReadDone bytes => Sys2Proof.Machine.execChunkReadDone bytes s
  | .bootPhaseBegin => Sys2Proof.Machine.execBootPhaseBegin s
  | .bootLanesClose => Sys2Proof.Machine.execBootLanesClose s
  | .release => Sys2Proof.Machine.execRelease s
  | .powerLoss cut => Sys2Proof.Machine.execPowerLoss cut s

end Sys2Proof.Machine
end

