-- ==== Sys2Proof/Safety.lean ====
section
/-! DEFINITION. The predicates the statements speak of: what stays true of the HK48 at every step, what a command may only
change in one direction, and the conditions under which a request's work starts at once. -/
namespace Sys2Proof

/-- The commands that end all work in the part (00 section 5.5, R14). -/
def Instr.resets : Instr → Bool
  | .powerOn _ | .pinReset _ | .powerLoss _ => true
  | _ => false

end Sys2Proof

namespace Sys2Proof.Machine

/-! ### What stays true -/

/-- The context table has twelve entries of which at most four are pinned (R119, R125). -/
def CtxTable.sound (t : CtxTable) : Bool := t.entries.length == 12 && t.pinnedCount ≤ 4

/-- Every loaded key was read from the record its slot holds now: the generation of each LOADED entry is the current generation
of its slot (R119, R130). -/
def State.keysCurrent (s : State) : Bool :=
  s.ctx.entries.all fun e => e.ctx.all fun c => c.gen == s.store.gen c.slot

/-- Every loaded key is valid: its generation is its slot's current one, its domain is in its channel's grant set, and the owner grant
is active when it needs it (R130). -/
def State.keysValid (s : State) : Prop :=
  ∀ e c, e ∈ s.ctx.entries → e.ctx = some c →
    c.gen = s.store.gen c.slot ∧ s.granted c.owner c.domain = true ∧ (c.needsOwner = true → s.owner.grant.isSome = true)

/-- What keeps every loaded key valid: it is, a CLOSED channel A has no grant set, and neither channel has one before the start-up
load has ended (R13, R15, R130). -/
def State.keysSound (s : State) : Prop :=
  s.keysValid ∧ (s.chA.state = .closed → s.chA.grants = 0#6) ∧ (s.power ≠ .running → s.chA.grants = 0#6 ∧ s.chS.grants = 0#6)

/-- The value of a lane by the log: 32 zero bytes extended, in log order, by the digests of the lane's entries (R138). -/
def replayed (n : Nat) (log : List LogEntry) : Bytes :=
  log.foldl (fun v e => if e.lane = n then digestOf (v ++ e.digest) else v) (List.replicate 32 0#8)

/-- The eight lanes are what the log replays to, and a running EXTEND job whose result will count works on its lane's value (R138,
R32). -/
def State.lanesReplay (s : State) : Prop :=
  s.meas.lanes.length = 8 ∧ (∀ n, n < 8 → s.meas.lane n = replayed n s.meas.log) ∧
    ∀ r lane v d l src, s.engine.running = some r → r.dropped = false → r.job = .extend lane v d l src → lane < 8 →
      v = s.meas.lane lane

/-- The store array is in its canonical form. -/
def State.memOk (s : State) : Bool := Memory.wf s.store.mem

/-! ### What changes in one direction only -/

/-- No bit of a byte string rises from 0 to 1. -/
def noneRises (old new : Bytes) : Prop := ∀ i, byteAt new i &&& ~~~ byteAt old i = 0#8

/-- No cell of a root entry rises. -/
def RootCells.onlyFalls (old new : RootCells) : Prop :=
  noneRises old.digest new.digest ∧ new.marker &&& ~~~ old.marker = 0#8

/-- A one-time cell goes from 1 to 0 once and not back, and a lock bit, once set, stays set (00 section 6, R35). -/
structure Cells.OnlyProgrammed (old new : Cells) : Prop where
  page0      : noneRises old.page0 new.page0
  seed       : noneRises old.seed new.seed
  seedCompl  : noneRises old.seedCompl new.seedCompl
  keysMarker : new.keysMarker &&& ~~~ old.keysMarker = 0#8
  roots      : new.roots.length = old.roots.length ∧
                 ∀ (i : Nat) (a b : RootCells), old.roots[i]? = some a → new.roots[i]? = some b → a.onlyFalls b
  loader     : new.loader &&& ~~~ old.loader = 0#255
  system     : new.system &&& ~~~ old.system = 0#255
  radio      : new.radio &&& ~~~ old.radio = 0#255
  ownerEpoch : new.ownerEpoch &&& ~~~ old.ownerEpoch = 0#64
  retired    : new.retired &&& ~~~ old.retired = 0#40
  locks      : old.locks &&& ~~~ new.locks = 0#5

/-! ### What the start-up scan is to find (R60, R61)

`retired` is the retired-block map: a bit that still reads 1 leaves its block in use (R43). -/

/-- A page of a block in use that is good: not ERASED, with a record that passes the four tests (R60). -/
def GoodAt (mem : List Host.Cell) (retired : BitVec 40) (p : Nat) (g : GoodPage) : Prop :=
  p < 640 ∧ retired.getLsbD (p / 16) = true ∧ Mem.pageErased mem p = false ∧ parsePage (Mem.readPage mem p) = some g

/-- Of two good pages of a slot the first is taken: the higher generation, on a tie the lower block, in one block the higher page
(R60). -/
def TakenOver (p : Nat) (g : GoodPage) (q : Nat) (h : GoodPage) : Prop :=
  h.gen < g.gen ∨ h.gen = g.gen ∧ (p / 16 < q / 16 ∨ p / 16 = q / 16 ∧ q < p)

/-- The LIVE page of a slot (R60). -/
def LiveAt (mem : List Host.Cell) (retired : BitVec 40) (n p : Nat) (g : GoodPage) : Prop :=
  GoodAt mem retired p g ∧ g.slot = n ∧ ∀ q h, GoodAt mem retired q h → h.slot = n → q ≠ p → TakenOver p g q h

/-- A FREE block: in use, its 16 pages ERASED (R61 step 2). -/
def FreeAt (mem : List Host.Cell) (retired : BitVec 40) (b : Nat) : Prop :=
  b < 40 ∧ retired.getLsbD b = true ∧ ∀ k, k < 16 → Mem.pageErased mem (16 * b + k) = true

/-- A candidate for OPEN: a non-erased page, page 15 ERASED, no ERASED page below a non-erased page (R61 step 3). -/
def CandidateAt (mem : List Host.Cell) (retired : BitVec 40) (b : Nat) : Prop :=
  b < 40 ∧ retired.getLsbD b = true ∧ (∃ k, k < 16 ∧ Mem.pageErased mem (16 * b + k) = false) ∧
    Mem.pageErased mem (16 * b + 15) = true ∧
    ∀ j k, j < k → k < 16 → Mem.pageErased mem (16 * b + j) = true → Mem.pageErased mem (16 * b + k) = true

/-- A good page that stands for a slot's generation outside a block (R61 step 4). -/
def Duplicate (mem : List Host.Cell) (retired : BitVec 40) (b n : Nat) (gen : Word) (q : Nat) (h : GoodPage) : Prop :=
  GoodAt mem retired q h ∧ h.slot = n ∧ h.gen = gen ∧ q / 16 ≠ b

/-- A redundant block: each slot whose LIVE page it holds has a duplicate outside it (R61 step 4). -/
def RedundantAt (mem : List Host.Cell) (retired : BitVec 40) (b : Nat) : Prop :=
  b < 40 ∧ retired.getLsbD b = true ∧
    ∀ n p g, LiveAt mem retired n p g → p / 16 = b → ∃ q h, Duplicate mem retired b n g.gen q h

/-- The highest generation of any good page of a block, 0 with none (R61 step 5, log 40). -/
def TopGenAt (mem : List Host.Cell) (retired : BitVec 40) (b m : Nat) : Prop :=
  (∀ p g, GoodAt mem retired p g → p / 16 = b → g.gen.toNat ≤ m) ∧
    (m = 0 ∨ ∃ p g, GoodAt mem retired p g ∧ p / 16 = b ∧ g.gen.toNat = m)

/-- The OPEN block: among the candidates but for the block set aside the one with the highest generation, the lower number on a tie
(R61 step 5). -/
def OpenAt (mem : List Host.Cell) (retired : BitVec 40) (aside : Option Nat) (b : Nat) : Prop :=
  CandidateAt mem retired b ∧ aside ≠ some b ∧
    ∀ c m k, CandidateAt mem retired c → aside ≠ some c → c ≠ b → TopGenAt mem retired b m → TopGenAt mem retired c k →
      k < m ∨ k = m ∧ b < c

/-- What the scan gives: the ERASED pages, the slot map, the block set aside, the block states, DEGRADED with its fault, and a
controller with nothing to do (R60, R61, R72). -/
structure ScanFinds (mem : List Host.Cell) (retired : BitVec 40) (x : Scan) : Prop where
  array     : x.store.mem = mem
  used      : ∀ p, p < 640 → retired.getLsbD (p / 16) = true → x.store.isUsed p = !Mem.pageErased mem p
  live      : ∀ n p g, LiveAt mem retired n p g → x.store.entry n = some { slot := n, page := p, gen := g.gen }
  never     : ∀ n, (∀ p g, GoodAt mem retired p g → g.slot ≠ n) → x.store.entry n = none
  noAside   : (∃ b, FreeAt mem retired b) → x.aside = none
  aside     : (∀ b, ¬ FreeAt mem retired b) → ∀ b,
                x.aside = some b ↔ RedundantAt mem retired b ∧ ∀ c, c < b → ¬ RedundantAt mem retired c
  unread    : ∀ b, b < 40 → retired.getLsbD b = false → x.store.block b = .retired
  spare     : ∀ b, FreeAt mem retired b → (∀ c, FreeAt mem retired c → b ≤ c) → x.store.block b = .spare
  free      : ∀ b c, FreeAt mem retired b → FreeAt mem retired c → c < b → x.store.block b = .free
  opened    : ∀ b, OpenAt mem retired x.aside b → x.store.block b = .openBlock
  filled    : ∀ b, b < 40 → retired.getLsbD b = true → ¬ FreeAt mem retired b → ¬ OpenAt mem retired x.aside b →
                x.store.block b = .filled
  degraded  : x.store.degraded = true ↔ (∀ b, ¬ FreeAt mem retired b) ∧ ∀ b, ¬ RedundantAt mem retired b
  fault     : x.store.fault =
                if x.store.degraded then some { kind := .degraded, block := none, uptime := 0, more := false } else none
  idle      : x.store.taken = none ∧ x.store.op = none ∧ x.store.comp = none ∧ x.store.fifo = [] ∧ x.store.waiters = [] ∧
                x.store.markOut = false ∧ x.store.marksHeld = []

/-- The store after the load: as the scan gives it, or with the recovery erase of the block set aside begun, each slot map entry of
that block moved to the duplicate that the tie rule chooses (R61). -/
structure Recovers (mem : List Host.Cell) (retired : BitVec 40) (x : Scan) (st : Store) : Prop where
  keeps : x.aside = none → st = x.store
  erase : ∀ b, x.aside = some b → st = { x.store with op := some (.recoveryErase b), map := st.map }
  stays : ∀ b n, x.aside = some b → (∀ e, x.store.entry n = some e → e.page / 16 ≠ b) → st.entry n = x.store.entry n
  moves : ∀ b n e q h, x.aside = some b → x.store.entry n = some e → e.page / 16 = b → Duplicate mem retired b n e.gen q h →
            (∀ q' h', Duplicate mem retired b n e.gen q' h' → q' ≠ q → TakenOver q h q' h') →
            st.entry n = some { e with page := q }

/-! ### When a request's work starts at once (log 11) -/

/-- No block has anything left to start. -/
def State.quiet (s : State) : Bool := s.settle1.isNone

/-- No claim waits at the arbiter. -/
def Engine.noClaim (e : Engine) : Bool := e.claimS.isNone && e.claimA.isNone && e.claimF.isNone

/-- The engine is free, each of the three claimants stands once in the order, and no claim waits. -/
def Engine.free (e : Engine) : Bool :=
  e.running.isNone && e.noClaim && [Claimant.S, .A, .F].all fun c => e.order.contains c

/-- The store controller is READY with nothing waiting, and not DEGRADED. -/
def Store.idle (st : Store) : Bool := st.ready && st.fifo.isEmpty && st.waiters.isEmpty && !st.degraded

/-- The page for a new record when no compaction is needed, and the store once it is found: the OPEN block's fill point, or page
0 of the lowest-numbered FREE block, which becomes OPEN (R64). -/
def Store.place (st : Store) : Option (Store × Nat) :=
  match st.openPage, st.firstBlock .free with
  | some p, _ => some (st, p)
  | none, some b => some (st.setBlock b .openBlock, 16 * b)
  | none, none => none

/-- The engine with a job granted to a claimant, who moves to the end of the order (R31). -/
def Engine.runs (e : Engine) (who : Claimant) (j : Job) : Engine :=
  { e with running := some { who := who, job := j, dropped := false }, order := moveLast who e.order }

/-- The store with a job taken and its program into a page begun (R63, R64). -/
def Store.writes (st : Store) (j : WriteJob) (page : Nat) : Store :=
  { st with taken := some { job := j, attempts := 0 },
            op := some (.program page (recordPage j.slot (st.gen j.slot + 1#32) j.record)) }

/-- The write right of a channel over a domain, without its effect on the grant's last use (R81, R82). -/
def State.mayWrite (s : State) (ch : Chan) (d : Option Domain) : Bool :=
  d.any fun dom => s.granted ch d && dom.writableOn ch && (!dom.needsGrant || s.owner.grant.isSome)

/-- The state after judgments of which some needed the owner grant: its last use is now (R110). -/
def State.afterUse (s : State) (needed : Bool) : State := if needed then s.useGrant else s

/-- A domain that needs the owner grant, when given. -/
def grantNeeded (d : Option Domain) : Bool := d.any Domain.needsGrant

/-- The store once a job's page program has read back as intended: the page is LIVE, the slot map takes it with the next
generation, and the controller has no job and no operation (R65). -/
def Store.committed (st : Store) (j : WriteJob) (page : Nat) (bytes : Bytes) : Store :=
  { (st.markUsed page).fillIfFull (blockOf page) with
    mem := Mem.setPage st.mem page (fit 256 0xFF#8 bytes), op := none, taken := none,
    map := insertEntry { slot := j.slot, page := page, gen := st.gen j.slot + 1#32 } st.map }

/-- The state in which a boot record change has been asked for, filed and taken, and its program has begun (R153, R63, R64). -/
def State.runsChange (s : State) (c : Change) (st : Store) (page : Nat) : State :=
  { s with boot := { s.boot with active := some { asked := { change := c, live := true },
                                                  built := some (s.boot.record.apply c) } },
           store := st.writes (bootJob c (s.boot.record.apply c)) page }

/-- The state with another line state and acknowledge bit. -/
def State.onLine (s : State) (l : Line) (ack : Bool) : State := { s with link := { s.link with line := l, ack := some ack } }

/-- A channel that holds a reply and no request, its request buffer emptied. -/
def Channel.holding (c : Channel) (st : Status) (body : Bytes) : Channel :=
  { c with state := .replyReady, rxLen := [], rx := [], condemned := false, work := .none,
           reply := some { status := st, body := body } }

/-- A confirmation ended with its reply: the floors as reached, each with its outcome, both banks' states and the preferred bank
(R189); with none when its request is gone (R190). -/
def State.confirmed (s : State) (k : Confirm) (st : Status) : State :=
  if k.live then
    s.reply .A (if st ≠ .ok then st else if (∃ o, o ∈ k.outs ∧ o.status = .otpFault) then .otpFault else .ok)
      ((k.outs.flatMap fun o => [byte o.value, o.status.code]) ++
        [(s.boot.record.bank k.bank).state.code, (s.boot.record.bank k.bank.other).state.code, s.boot.record.preferred.code])
  else s

/-- The part with a job of the engine ended: the engine is free (R31). -/
def State.engineFreed (s : State) : State := s.mapEngine fun e => { e with running := none }

end Sys2Proof.Machine
end

