-- ==== Sys2Proof/Certificates/Slice0/Obligations.lean ====
section
/-! DEFINITION. The statements about the HK48. Each speaks of every state and every operand that meet its premises; a result is
given as the whole next state, so that what is not named in it is unchanged. -/
open Sys2Proof Sys2Proof.Machine

/-! ### The step and the queue -/

/-- A step takes the command at the front of the queue and is that command's effect on the state with the queue's rest. -/
def Obligations.StepRunsTheFrontCommand : Prop :=
  ∀ (c : Instr) (rest : List Instr) (s : State), s.pending = c :: rest → step s = exec c (s.withPending rest)

/-- With no command waiting the part idles (the model's choice, log 4).
Settling takes the due turns one after another until none is due, at most 2000 of them; a state in which nothing is due it leaves
as it is (the model's choice, log 11).
The arbiter: a free engine goes to the first claimant in the order that has a claim, and that claimant moves to the end of the
order when its job starts; a claim that ends without a job leaves the order as it is; with a job running, or with no claim, there is
no grant (R31, R32). -/
def Obligations.IdleAndSettling : Prop :=
  (∀ s : State, s.pending = [] → step s = .next s) ∧
  (∀ s t : State, (s.quiet = true → s.settle = s) ∧ (s.settle1 = some t → t.quiet = true → s.settle = t)) ∧
  (∀ (n : Nat) (u : Nat → State), n ≤ 2000 → (∀ i, i < n → (u i).settle1 = some (u (i + 1))) →
    (u n).quiet = true ∨ n = 2000 → (u 0).settle = u n) ∧
  (∀ s : State,
    (s.engine.running ≠ none ∨ s.engine.noClaim = true → s.grantEngine = none) ∧
    (∀ (pre post : List Claimant) (who : Claimant) (p : Pending) (u : State), s.engine.running = none →
      s.engine.order = pre ++ who :: post → who ∉ pre → who ∉ post → (∀ c, c ∈ pre → s.engine.claim c = none) →
      s.engine.claim who = some p → u = { s with engine := s.engine.setClaim who none } →
      (∀ j t, u.gather who.chan p.claim = (some j, t) →
        s.grantEngine =
          some { t with engine := { u.engine with running := some { who := who, job := j, dropped := p.dropped },
                                                  order := pre ++ post ++ [who] } }) ∧
      (∀ t, u.gather who.chan p.claim = (none, t) → s.grantEngine = some t ∧ t.engine = u.engine)))

/-- Every command answers a next state in every state: no error of the HK48 stops it.
No command changes the queue of the commands that wait.
A command whose event cannot happen in the state leaves the state as it is (the model's choice, log 2). -/
def Obligations.EveryCommandAnswersAndKeepsTheQueue : Prop :=
  (∀ (c : Instr) (s : State), ∃ t, exec c s = .next t) ∧
  (∀ (c : Instr) (s t : State), exec c s = .next t → t.pending = s.pending) ∧
  (∀ s : State,
    (s.power ≠ .inReset → exec .pinResetRelease s = .next s) ∧ (s.power ≠ .loading → exec .startUpLoad s = .next s) ∧
    (∀ cut, s.power = .off → exec (.pinReset cut) s = .next s ∧ exec (.powerLoss cut) s = .next s) ∧
    (∀ b, s.power = .off → exec (.addressByte b) s = .next s ∧ exec .frameClose s = .next s) ∧
    (s.link.line = .waitStart ∨ s.link.line = .ignoring → exec .stuckLineTimerExpiry s = .next s) ∧
    (∀ n ends, (s.link.line = .waitStart ∨ s.link.line = .ignoring ∨ ∃ ch k, s.link.line = .write ch k) →
      exec (.readFrame n ends) s = .next s) ∧
    (∀ b, (s.link.line = .waitStart ∨ s.link.line = .readReleased ∨
        ∃ ch pos, s.link.line = .readReply ch pos ∨ s.link.line = .readNoReply ch pos) →
      exec (.writeDataByte b) s = .next s) ∧
    (s.power ≠ .running → exec .uptimeTick s = .next s) ∧
    (s.owner.idleDue = false → exec .ownerGrantIdleExpiry s = .next s) ∧
    (s.boot.stage ≠ .phaseWait → exec .bootPhaseBegin s = .next s) ∧
    ((∀ m b, s.boot.stage ≠ .releaseReady m b) ∨ s.power ≠ .running ∨ s.chA.state ≠ .closed →
      exec .release s = .next s) ∧
    ((∀ m b, s.boot.stage ≠ .releaseClosing m b) ∨ s.power ≠ .running ∨ s.chA.state ≠ .closed →
      exec .bootLanesClose s = .next s)) ∧
  (∀ s : State,
    ((∀ r st bytes, s.engine.running = some r → r.job ≠ .hashChunk st bytes) → exec .hashChunkEnd s = .next s) ∧
    ((∀ r p st final, s.engine.running = some r → r.job ≠ .finishDigest p st final) → exec .finishDigestEnd s = .next s) ∧
    ((∀ r lane v d l src, s.engine.running = some r → r.job ≠ .extend lane v d l src) → exec .extendJobEnd s = .next s) ∧
    ((∀ r key d sig, s.engine.running = some r → r.job ≠ .verifySig key d sig) → exec .verifySignatureEnd s = .next s) ∧
    ((∀ r k d, s.engine.running = some r → r.job ≠ .sign k d) → exec .signJobEnd s = .next s) ∧
    ((∀ r k info, s.engine.running = some r → r.job ≠ .derive k info) → exec .deriveJobEnd s = .next s) ∧
    ((∀ r salt cand, s.engine.running = some r → r.job ≠ .stretch salt cand) → exec .stretchEnd s = .next s) ∧
    ((∀ r k, s.engine.running = some r → r.job ≠ .keygen k) → ∀ ok draws, exec (.keygenEnd ok draws) s = .next s) ∧
    ((∀ r n, s.engine.running = some r → r.job ≠ .random n) → ∀ ok drawn, exec (.randomEnd ok drawn) s = .next s)) ∧
  (∀ s : State,
    ((∀ page bytes, s.store.op ≠ some (.program page bytes)) → ∀ bad, exec (.pageProgramDone bad) s = .next s) ∧
    ((∀ page, s.store.op ≠ some (.void page) ∧ s.store.op ≠ some (.copyVoid page)) →
      ∀ bad, exec (.pageVoidDone bad) s = .next s) ∧
    ((∀ src dst bytes, s.store.op ≠ some (.copy src dst bytes)) → ∀ bad, exec (.copyProgramDone bad) s = .next s) ∧
    ((∀ b, s.store.op ≠ some (.erase b)) → ∀ left, exec (.blockEraseDone left) s = .next s) ∧
    ((∀ b, s.store.op ≠ some (.recoveryErase b)) → ∀ left, exec (.recoveryEraseDone left) s = .next s) ∧
    ((∀ r pos, s.ota.current = some r → r.op.byteAt pos = none) → ∀ stuck, exec (.otaByteProgrammed stuck) s = .next s) ∧
    ((∀ r k target filer, s.ota.current = some r → r.op ≠ .advance k target filer) →
      ∀ ok, exec (.counterBitProgrammed ok) s = .next s) ∧
    ((∀ r, s.ota.current = some r → r.op ≠ .seal) → ∀ ok, exec (.lockBitProgrammed ok) s = .next s) ∧
    ((∀ r b, s.ota.current = some r → r.op ≠ .retire b) → ∀ ok, exec (.retireBitProgrammed ok) s = .next s) ∧
    ((∀ f, s.checker.flash = some f → f.read ≠ .id) → ∀ b0 b1 b2, exec (.flashIdReadDone b0 b1 b2) s = .next s) ∧
    ((∀ f, s.checker.flash = some f → f.read ≠ .manifest) → ∀ bytes, exec (.manifestReadDone bytes) s = .next s) ∧
    ((∀ f n, s.checker.flash = some f → f.read ≠ .chunk n) → ∀ bytes, exec (.chunkReadDone bytes) s = .next s)) ∧
  (∀ (s : State) (ch : Chan) (rcv : Bool) (code : Byte) (c : Instr),
    ((code, c) ∈
        [(0x01#8, Instr.identify ch), (0x02#8, Instr.readEvents ch), (0x03#8, Instr.getSetting ch),
        (0x20#8, Instr.readStoreHealth ch), (0x28#8, Instr.writeSlot ch), (0x29#8, Instr.generateKey ch),
        (0x2A#8, Instr.deleteSlot ch), (0x2B#8, Instr.readSlotInfo ch), (0x33#8, Instr.readThrottle ch),
        (0x40#8, Instr.openKey ch), (0x41#8, Instr.closeKey ch), (0x42#8, Instr.pinKey ch), (0x43#8, Instr.unpinKey ch),
        (0x44#8, Instr.listContexts ch), (0x45#8, Instr.sign ch), (0x46#8, Instr.derive ch), (0x47#8, Instr.releaseSecret ch),
        (0x50#8, Instr.extend ch), (0x51#8, Instr.readLanes ch), (0x52#8, Instr.readLog ch), (0x53#8, Instr.quote ch),
        (0x60#8, Instr.readBootState ch), (0x62#8, Instr.restartPlatform ch), (0x71#8, Instr.admissionStatus ch)] →
      s.request ch code = none → exec c s = .next s) ∧
    ((code, c) ∈
        [(0x04#8, Instr.setSetting), (0x10#8, Instr.writeIdentity), (0x11#8, Instr.generateDeviceKeys),
        (0x12#8, Instr.installRoot), (0x13#8, Instr.seal), (0x21#8, Instr.setGuard), (0x22#8, Instr.freezeGuard),
        (0x34#8, Instr.ownerReset rcv), (0x61#8, Instr.releaseRecovery)] →
      s.request .S code = none → exec c s = .next s) ∧
    ((code, c) ∈
        [(0x05#8, Instr.restrictGrants), (0x30#8, Instr.verifyOwner), (0x31#8, Instr.endOwner), (0x32#8, Instr.setVerifier),
        (0x63#8, Instr.selectBank), (0x70#8, Instr.admitBank), (0x72#8, Instr.abortAdmission), (0x73#8, Instr.confirmBoot)] →
      s.request .A code = none → exec c s = .next s))

/-! ### The link (chapter 1) -/

/-- An address byte is answered by the channel's state and its read bit (R1, R3); a repeated START before it closes the write in
progress as a STOP does (R4, R7).
That the repeated START closes the write within this command is the model's reading (log 12). -/
def Obligations.AddressByteAnswersByState : Prop :=
  ∀ (b : Byte) (s : State),
    (∀ t, exec .frameClose s = .next t → exec (.addressByte b) s = exec (.addressByte b) t) ∧
    (s.power = .running → (∀ ch n, s.link.line ≠ .write ch n) →
      (b.toNat / 2 ≠ 0x36 → b.toNat / 2 ≠ 0x37 → exec (.addressByte b) s = .next (s.onLine .ignoring false)) ∧
      ∀ ch : Chan, b.toNat / 2 = (match ch with | .S => 0x36 | .A => 0x37) →
        ((s.chan ch).state = .closed → exec (.addressByte b) s = .next (s.onLine .ignoring false)) ∧
        ((s.chan ch).state = .working → exec (.addressByte b) s = .next (s.onLine .ignoring false)) ∧
        ((s.chan ch).state = .idle → b.getLsbD 0 = false → exec (.addressByte b) s = .next (s.onLine (.write ch 0) true)) ∧
        ((s.chan ch).state = .replyReady → b.getLsbD 0 = false →
          exec (.addressByte b) s = .next (s.onLine (.write ch 0) true)) ∧
        ((s.chan ch).state = .idle → b.getLsbD 0 = true →
          exec (.addressByte b) s = .next (s.onLine (.readNoReply ch 0) true)) ∧
        ((s.chan ch).state = .replyReady → b.getLsbD 0 = true →
          exec (.addressByte b) s = .next (s.onLine (.readReply ch 0) true)))

/-- The data bytes of a write: the first moves the channel to RECEIVING and discards a held reply, two bytes form the declared
length, a length of 0 or above 1025 condemns the frame, later bytes are stored up to the length plus two and refused after
that (R4, R6).
The length bytes are kept beside the buffer (the model's choice, log 36). -/
def Obligations.DataBytesFillTheRequestBuffer : Prop :=
  ∀ (b : Byte) (s : State) (ch : Chan) (n : Nat) (c : Channel), s.link.line = .write ch n → s.chan ch = c →
    (c.state = .idle ∨ c.state = .replyReady →
      exec (.writeDataByte b) s =
        .next ((s.setChan ch { c with state := .receiving, rxLen := [b], rx := [], condemned := false, reply := none }).onLine
          (.write ch (n + 1)) true)) ∧
    (c.state = .receiving →
      (c.condemned = true → exec (.writeDataByte b) s = .next (s.onLine (.write ch n) false)) ∧
      (∀ h, c.condemned = false → c.rxLen = [h] →
        exec (.writeDataByte b) s =
          .next ((s.setChan ch { c with rxLen := [h, b],
                                        condemned := beNat [h, b] == 0 || 1025 < beNat [h, b] }).onLine
            (.write ch (n + 1)) true)) ∧
      (∀ h l, c.condemned = false → c.rxLen = [h, l] → c.rx.length < beNat [h, l] + 2 →
        exec (.writeDataByte b) s =
          .next ((s.setChan ch { c with rx := c.rx ++ [b] }).onLine (.write ch (n + 1)) true)) ∧
      (∀ h l, c.condemned = false → c.rxLen = [h, l] → beNat [h, l] + 2 ≤ c.rx.length →
        exec (.writeDataByte b) s = .next (s.onLine (.write ch n) false)))

/-- A frame closed by a STOP: FRAME_LENGTH when condemned, FRAME_SHORT when bytes are missing, FRAME_CHECK when its check
differs, the refusal of R8 when one of its checks fails, and otherwise the request is handed over (R5, R6, R7).
A request row acts on the request that FRAME_CLOSE handed over (the model's reading, log 1). -/
def Obligations.FrameCloseJudgesTheFrame : Prop :=
  ∀ (s : State) (ch : Chan) (n : Nat) (c : Channel), s.power ≠ .off → s.link.line = .write ch n → s.chan ch = c →
    (c.state ≠ .receiving → exec .frameClose s = .next (s.setLine .waitStart)) ∧
    (c.state = .receiving →
      (c.condemned = true → exec .frameClose s = .next ((s.setChan ch (c.holding .frameLength [])).setLine .waitStart)) ∧
      (c.condemned = false → (c.rxLen.length ≠ 2 ∨ c.rx.length ≠ beNat c.rxLen + 2) →
        exec .frameClose s = .next ((s.setChan ch (c.holding .frameShort [])).setLine .waitStart)) ∧
      (∀ body check, c.condemned = false → c.rxLen.length = 2 → c.rx = body ++ check → body.length = beNat c.rxLen →
        check.length = 2 →
        (check ≠ crcBytes (c.rxLen ++ body) →
          exec .frameClose s = .next ((s.setChan ch (c.holding .frameCheck [])).setLine .waitStart)) ∧
        (∀ code args, check = crcBytes (c.rxLen ++ body) → body = code :: args →
          (∀ st, permission s.ota.lifecycle ch code = some st →
            exec .frameClose s = .next ((s.setChan ch (c.holding st [])).setLine .waitStart)) ∧
          (permission s.ota.lifecycle ch code = none →
            exec .frameClose s =
              .next ((s.setChan ch { c with state := .working, rxLen := [], rx := [], condemned := false, reply := none,
                                            work := .handed code args }).setLine .waitStart)))))

/-- The three checks of R8 in their order: a code of the part, a channel it is allowed on, and no other request than IDENTIFY in
lifecycle FAILED. -/
def Obligations.PermissionChecksInOrder : Prop :=
  ∀ (lc : Lifecycle) (ch : Chan) (code : Byte),
    let onS := [0x04#8, 0x10#8, 0x11#8, 0x12#8, 0x13#8, 0x21#8, 0x22#8, 0x34#8, 0x61#8]
    let onA := [0x05#8, 0x30#8, 0x31#8, 0x32#8, 0x63#8, 0x70#8, 0x72#8, 0x73#8]
    let both := [0x01#8, 0x02#8, 0x03#8, 0x20#8, 0x28#8, 0x29#8, 0x2A#8, 0x2B#8, 0x33#8, 0x40#8, 0x41#8, 0x42#8, 0x43#8, 0x44#8,
                 0x45#8, 0x46#8, 0x47#8, 0x50#8, 0x51#8, 0x52#8, 0x53#8, 0x60#8, 0x62#8, 0x71#8]
    permission lc ch code =
      if code ∉ onS ∧ code ∉ onA ∧ code ∉ both then some .unknownRequest
      else if (ch = .A ∧ code ∈ onS) ∨ (ch = .S ∧ code ∈ onA) then some .notPermitted
      else if lc = .failed ∧ code ≠ 0x01#8 then some .wrongState
      else none

/-- A read of a held reply: what is clocked out, 0xFF past the frame's end, and the channel in IDLE with an empty reply buffer
once the second check byte is out; before that the reply stays held. A read in IDLE gives the NO_REPLY frame (R10).
The stuck-line timer by what the transfer was (R11); after it the bus is ignored until the next START.
How many bytes one command clocks out, and that the timer's time is the sender's, are the model's choices (log 13, log 14). -/
def Obligations.ReadsAndTheStuckLineTimer : Prop :=
  (∀ (n : Nat) (ends : Bool) (s : State) (ch : Chan) (pos : Nat),
    (∀ r, s.link.line = .readReply ch pos → (s.chan ch).reply = some r →
      (r.frame.length ≤ pos + n →
        exec (.readFrame n ends) s =
          .next { s.setChan ch { s.chan ch with state := .idle, reply := none } with
            link := { s.link with line := if ends then .waitStart else .readReleased,
                                  dataOut := fit n 0xFF#8 ((r.frame.drop pos).take n) } }) ∧
      (pos + n < r.frame.length →
        exec (.readFrame n ends) s =
          .next { s with link := { s.link with line := if ends then .waitStart else .readReply ch (pos + n),
                                               dataOut := fit n 0xFF#8 ((r.frame.drop pos).take n) } })) ∧
    (s.link.line = .readNoReply ch pos →
      exec (.readFrame n ends) s =
        .next { s with link :=
          { s.link with line := if ends then .waitStart else .readNoReply ch (pos + n),
                        dataOut := fit n 0xFF#8 (((Reply.frame { status := .noReply, body := [] }).drop pos).take n) } })) ∧
  (∀ (s : State) (ch : Chan) (n : Nat) (c : Channel), s.chan ch = c →
    (s.link.line = .write ch n →
      (c.state = .receiving → c.condemned = false →
        exec .stuckLineTimerExpiry s = .next ((s.setChan ch (c.holding .frameShort [])).setLine .ignoring)) ∧
      (c.state = .receiving → c.condemned = true →
        exec .stuckLineTimerExpiry s = .next ((s.setChan ch (c.holding .frameLength [])).setLine .ignoring)) ∧
      (c.state ≠ .receiving → exec .stuckLineTimerExpiry s = .next (s.setLine .ignoring))) ∧
    (s.link.line = .readReply ch n ∨ s.link.line = .readNoReply ch n →
      exec .stuckLineTimerExpiry s = .next (s.setLine .ignoring)))

/-- The two check figures of section 1.2 and the form of a reply frame (R2). -/
def Obligations.ReplyFrameAndItsCheck : Prop :=
  crc16 (ascii "123456789") = 0x29B1#16 ∧ crc16 [] = 0xFFFF#16 ∧
    ∀ (st : Status) (body : Bytes),
      let counted := be 2 (1 + body.length) ++ [st.code] ++ body
      Reply.frame { status := st, body := body } = counted ++ be 2 (crc16 counted).toNat

/-- A channel's attention line is asserted exactly while the channel is open and it is in REPLY_READY or has a pending event
whose enable is set (R18); the enables are settings 6 (channel S) and 5 (channel A), first event in the lowest bit. -/
def Obligations.AttentionFollowsReplyAndEvents : Prop :=
  ∀ (s : State) (ch : Chan) (c : Channel) (en : Nat), s.chan ch = c →
    en = (match ch with | .S => s.settings.enablesS | .A => s.settings.enablesA) →
    (s.attention ch = true ↔
      c.state ≠ .closed ∧ (c.state = .replyReady ∨ (c.ev1 = true ∧ en.testBit 0 = true) ∨
        (c.ev2 = true ∧ en.testBit 1 = true) ∨ (c.ev3 = true ∧ en.testBit 2 = true)))

/-! ### Requests answered from RAM (chapters 1, 4 to 10) -/

/-- IDENTIFY gives identity, lifecycle, attestation key, the four roots, the floors, the owner epoch and the boot state, and
changes nothing else (R20).
Where the reply's bytes stand, that no count stands before the four roots, and when device keys count as present are read by the
model (log 18, log 45, log 28). -/
def Obligations.IdentifyReportsTheUnit : Prop :=
  ∀ (ch : Chan) (s : State), s.request ch 0x01#8 = some [] →
    exec (.identify ch) s =
      .next (s.reply ch .ok
        (optBytes (s.ota.identity.map fun copy => copy.take 26) ++ [s.ota.lifecycle.code]
          ++ optBytes (s.engine.attest.map fun k => k.pub)
          ++ (s.ota.roots.flatMap fun r =>
                if r.present then 1#8 :: r.digest else 0#8 :: List.replicate 32 0#8)
          ++ [byte s.ota.loader, byte s.ota.system, byte s.ota.radio, byte s.ota.epoch, s.boot.state.code, s.boot.mode.code]))

/-- READ EVENTS clears the pending event of highest priority and counts the flags still set (R19); the order of priority is that
of R17. That the count is one byte is read by the model (log 18). -/
def Obligations.ReadEventsClearsTheFirst : Prop :=
  ∀ (ch : Chan) (s : State) (c : Channel) (e1 e2 e3 : Event), s.chan ch = c → s.request ch 0x02#8 = some [] →
    (e1, e2, e3) = (match ch with
      | .S => (Event.bootFailed, Event.bootDone, Event.storeFault)
      | .A => (Event.storeFault, Event.ownerGrantEnded, Event.admissionDone)) →
    (c.ev1 = true →
      exec (.readEvents ch) s =
        .next ((s.setChan ch { c with ev1 := false }).reply ch .ok [eventCode (some e1), byte (c.ev2.toNat + c.ev3.toNat)])) ∧
    (c.ev1 = false → c.ev2 = true →
      exec (.readEvents ch) s =
        .next ((s.setChan ch { c with ev2 := false }).reply ch .ok [eventCode (some e2), byte c.ev3.toNat])) ∧
    (c.ev1 = false → c.ev2 = false → c.ev3 = true →
      exec (.readEvents ch) s = .next ((s.setChan ch { c with ev3 := false }).reply ch .ok [eventCode (some e3), 0#8])) ∧
    (c.ev1 = false → c.ev2 = false → c.ev3 = false → exec (.readEvents ch) s = .next (s.reply ch .ok [0#8, 0#8]))

/-- GET SETTING gives the RAM value of settings 1 to 7 in four bytes and refuses every other number (R21). -/
def Obligations.GetSettingReportsRam : Prop :=
  ∀ (ch : Chan) (s : State) (n : Byte), s.request ch 0x03#8 = some [n] →
    (1 ≤ n.toNat → n.toNat ≤ 7 →
      exec (.getSetting ch) s =
        .next (s.reply ch .ok (n :: be 4 (
          match n.toNat with
          | 1 => s.settings.bank0Base
          | 2 => s.settings.bank1Base
          | 3 => s.settings.bankSize
          | 4 => s.settings.ownerIdle
          | 5 => s.settings.enablesA
          | 6 => s.settings.enablesS
          | _ => s.settings.grantsA)))) ∧
    (n = 0#8 ∨ 7 < n.toNat → exec (.getSetting ch) s = .next (s.reply ch .badArgument []))

/-- RESTRICT GRANTS takes the named domains out of channel A's grant set, frees channel A's entries in the domains that leave,
and replies with the set that is left; a flag that names no domain is refused (R16). -/
def Obligations.RestrictGrantsNarrows : Prop :=
  ∀ (s : State) (n : Byte), s.request .A 0x05#8 = some [n] →
    (n.toNat < 64 → ∀ left : DomSet, left = s.chA.grants &&& ~~~ n.setWidth 6 →
      exec .restrictGrants s =
        .next (({ s with chA := { s.chA with grants := left } }.invalidate fun c : Ctx =>
            c.owner == Chan.A && c.domain.any fun d : Domain => s.chA.grants.getLsbD d.bit && !left.getLsbD d.bit).reply
          .A .ok [left.setWidth 8])) ∧
    (64 ≤ n.toNat → exec .restrictGrants s = .next (s.reply .A .badArgument []))

/-- READ STORE HEALTH reports the fault record, the counts of blocks and pages, the OPEN and the spare block, DEGRADED and the guard as
they stand, and clears the fault record, and that alone (R74).
Where the reply's bytes stand is read by the model (log 18). -/
def Obligations.ReadStoreHealthClearsTheFault : Prop :=
  ∀ (ch : Chan) (s : State), s.request ch 0x20#8 = some [] →
    ∃ body, exec (.readStoreHealth ch) s = .next ({ s with store := { s.store with fault := none } }.reply ch .ok body) ∧
      (s.store.fault = none → body.take 1 = [0#8]) ∧
      (∀ f, s.store.fault = some f →
        body.take 8 = [1#8, f.kind.code, blockCode f.block] ++ be 4 f.uptime ++ [flagByte f.more]) ∧
      (s.store.fault = none → body.length = 19) ∧ (s.store.fault ≠ none → body.length = 26) ∧
      body.drop (body.length - 18) =
        [byte (s.store.countBlocks .free), byte (s.store.countBlocks .filled), byte (s.store.countBlocks .retired),
          blockCode (s.store.firstBlock .openBlock), blockCode s.store.spareReport]
        ++ be 2 (s.store.alivePages.filter s.store.isLive).length ++ be 2 (s.store.alivePages.filter s.store.isStale).length
        ++ be 2 (s.store.alivePages.filter fun p => !s.store.isUsed p && !s.store.isLive p).length ++ be 2 s.store.freePages
        ++ [flagByte s.store.degraded, byte s.guard.lower, byte s.guard.upper, flagByte s.guard.invert,
            flagByte s.guard.frozen]

/-- SET GUARD sets lower, upper and invert when they are good and the guard is not frozen; a frozen guard is WRONG_STATE, bad values
BAD_ARGUMENT. A guard lets a slot be written from lower to upper, or with invert below lower and above upper (R75); with lower 1 and
upper 254 every user slot is writable, or with invert none (R76). FREEZE GUARD sets the frozen flag alone, once; a frozen guard
stays as it is until power goes, a pin reset included, and judges as before; the power-on guard can be frozen and opens no slot
(R77). -/
def Obligations.GuardRequests : Prop :=
  (∀ (s : State),
    (∀ l u i : Byte, s.request .S 0x21#8 = some [l, u, i] →
      (s.guard.frozen = true → exec .setGuard s = .next (s.reply .S .wrongState [])) ∧
      (s.guard.frozen = false → 1 ≤ l.toNat → u.toNat ≤ 254 → l.toNat ≤ u.toNat → i.toNat ≤ 1 →
        exec .setGuard s =
          .next ({ s with guard := { lower := l.toNat, upper := u.toNat, invert := i == 1#8, frozen := false } }.reply
            .S .ok [l, u, i])) ∧
      (s.guard.frozen = false → (l = 0#8 ∨ u = 0#8 ∨ u.toNat = 255 ∨ l.toNat = 255 ∨ u.toNat < l.toNat ∨ 1 < i.toNat) →
        exec .setGuard s = .next (s.reply .S .badArgument []))) ∧
    (s.request .S 0x22#8 = some [] →
      (s.guard.frozen = true → exec .freezeGuard s = .next (s.reply .S .wrongState [])) ∧
      (s.guard.frozen = false →
        exec .freezeGuard s =
          .next ({ s with guard := { s.guard with frozen := true } }.reply .S .ok
            [byte s.guard.lower, byte s.guard.upper, flagByte s.guard.invert, 1#8])))) ∧
  (∀ (c : Instr) (s t : State), exec c s = .next t → s.guard.frozen = true →
    (∀ cut, c ≠ .powerOn cut ∧ c ≠ .powerLoss cut) → t.guard = s.guard) ∧
  (∀ (g : Guard) (n : Nat), 1 ≤ n → n ≤ 254 →
    ({ g with frozen := true } : Guard).allows n = g.allows n ∧ State.reset.guard.allows n = false ∧
    (g.lower = 1 → g.upper = 254 → g.allows n = !g.invert)) ∧
  (∀ (g : Guard) (n : Nat),
    (g.invert = false → (g.allows n = true ↔ g.lower ≤ n ∧ n ≤ g.upper)) ∧
    (g.invert = true → (g.allows n = true ↔ n < g.lower ∨ g.upper < n)))

/-- READ SLOT INFO: NO_SLOT with the generation for a slot never written or deleted, NOT_PERMITTED outside the grant set, and
otherwise the record's fields without its key material (R87, R89 to R91). Nothing else changes.
Where the reply's bytes stand is read by the model (log 18), and what it gives for a payload of a wrong length (log 41). -/
def Obligations.ReadSlotInfoReportsTheRecord : Prop :=
  ∀ (ch : Chan) (s : State) (n : Byte), s.request ch 0x2B#8 = some [n] → 1 ≤ n.toNat → n.toNat ≤ 254 →
    (s.store.keptRec n.toNat = none →
      exec (.readSlotInfo ch) s = .next (s.reply ch .noSlot (be 4 (s.store.gen n.toNat).toNat))) ∧
    (∀ r, s.store.keptRec n.toNat = some r → s.granted ch r.domain = false →
      exec (.readSlotInfo ch) s = .next (s.reply ch .notPermitted [])) ∧
    (∀ r, s.store.keptRec n.toNat = some r → s.granted ch r.domain = true →
      exec (.readSlotInfo ch) s =
        .next (s.reply ch .ok
          ([r.kind.code, domainCode r.domain, r.flags, flagByte r.needsOwner] ++ be 4 (s.store.gen n.toNat).toNat ++ [r.mask]
            ++ optBytes (if r.mask = 0#8 then none else some r.composite) ++ [byte r.label.length] ++ r.label
            ++ optBytes (if r.kind = .signingKey then some (slice r.payload 32 64)
                         else if r.kind = .trustAnchor then some r.payload else none)
            ++ optBytes (if r.kind = .secret then some [byte r.payload.length] else none)
            ++ optBytes (if r.kind = .verifier then some (slice r.payload 48 9 ++ [byteAt r.payload 57]) else none))))

/-- END OWNER (R113): an active grant ends as R111 gives (flag cleared, entries that need it freed, OWNER_GRANT_ENDED raised)
and the reply is OK with ended yes; otherwise OK with ended no and no event.
The uptime clock advances by one while the part runs and stays at its top; each advance finds whether the owner grant has been
idle for setting 4 or longer, and the grant then ends (R99, R112, R111; the split of check and end is the model's, log 17).
That a second of uptime is a command is the model's reading (log 33). -/
def Obligations.OwnerGrantEnds : Prop :=
  (∀ s : State, s.request .A 0x31#8 = some [] →
    (∀ g, s.owner.grant = some g →
      exec .endOwner s =
        .next ((({ s with owner := { s.owner with grant := none, idleDue := false } }.invalidate fun c => c.needsOwner).raise
          .A .ownerGrantEnded).reply .A .ok [1#8])) ∧
    (s.owner.grant = none → exec .endOwner s = .next (s.reply .A .ok [0#8]))) ∧
  (∀ s : State,
    (s.power = .running → s.owner.uptime < 4294967295 → s.owner.idleDue = false → ∀ due : Bool,
      (due = true ↔ ∃ g, s.owner.grant = some g ∧ s.settings.ownerIdle ≤ s.owner.uptime + 1 - g.lastUse) →
      exec .uptimeTick s = .next { s with owner := { s.owner with uptime := s.owner.uptime + 1, idleDue := due } }) ∧
    (4294967295 ≤ s.owner.uptime → exec .uptimeTick s = .next s) ∧
    (∀ g, s.owner.idleDue = true → s.owner.grant = some g → s.settings.ownerIdle ≤ s.owner.uptime - g.lastUse →
      exec .ownerGrantIdleExpiry s =
        .next (({ s with owner := { s.owner with grant := none, idleDue := false } }.invalidate fun c => c.needsOwner).raise
          .A .ownerGrantEnded)))

/-- Decay takes one from the count for each whole period since the last event and moves the last event by whole periods (R103);
the hold-off of a count doubles from B up to C (R102); a verifier is locked out from its hard limit on (R104).
READ THROTTLE applies the decay to the slot's entry and reports the count, the parameters, the hold-off that remains, the
lockout and the marker; it writes nothing to the store (R116, R103, R104).
The entry of a slot that has none is the model's choice (log 37), and where the reply's bytes stand and that every marker byte other
than 0 counts as set are read by the model (log 18, log 42). -/
def Obligations.ThrottleArithmeticAndReport : Prop :=
  (∀ (p : Params) (now f : Nat) (e : HoldEntry),
    (f ≤ p.F → holdOff p f = 0) ∧
    (∀ k, f = p.F + 1 + k → holdOff p f = if 17 ≤ k then p.C else min (p.B * 2 ^ k) p.C) ∧
    (lockedOut p f = true ↔ p.L ≠ 0 ∧ p.L ≤ f) ∧
    (∀ d, d = (now - e.lastEvent) / (p.P * 60) → 0 < p.P → lockedOut p e.count = false → 0 < d →
      decayed p now e = { e with count := e.count - d, lastEvent := e.lastEvent + d * (p.P * 60) }) ∧
    ((now - e.lastEvent) / (p.P * 60) = 0 ∨ p.P = 0 ∨ lockedOut p e.count = true → decayed p now e = e)) ∧
  (∀ (ch : Chan) (s : State) (n : Byte), s.request ch 0x33#8 = some [n] → 1 ≤ n.toNat → n.toNat ≤ 254 →
    (s.store.keptRec n.toNat = none → exec (.readThrottle ch) s = .next (s.reply ch .noSlot [])) ∧
    (∀ r, s.store.keptRec n.toNat = some r → r.kind ≠ .verifier →
      exec (.readThrottle ch) s = .next (s.reply ch .slotKind [])) ∧
    (∀ r p e e', s.store.keptRec n.toNat = some r → goodVerifier r = true → p = verifierParams r.payload →
      e = s.holdOf n.toNat → e' = decayed p s.owner.uptime e →
      exec (.readThrottle ch) s =
        .next ((s.setHold e').reply ch .ok
          ([byte ((s.setHold e').holdOf n.toNat).count, byte p.F, byte p.B] ++ be 4 p.C ++ [byte p.L] ++ be 2 p.P
            ++ be 4 (if p.L ≠ 0 ∧ p.L ≤ ((s.setHold e').holdOf n.toNat).count then 0
                     else ((s.setHold e').holdOf n.toNat).holdUntil - s.owner.uptime)
            ++ [flagByte (p.L != 0 && p.L ≤ ((s.setHold e').holdOf n.toNat).count)]
            ++ optBytes (if byteAt r.payload 58 = 0#8 then none else some (be 4 (beNat (slice r.payload 59 4))))))))
/-- CLOSE KEY frees the entry of a good handle and gives its new epoch; a handle that is not good is STALE_HANDLE and an entry
number above 11 is BAD_ARGUMENT, and nothing else changes (R120, R124).
PIN KEY and UNPIN KEY on a good handle (R125): the pinned flag alone changes, a fifth pin is NO_ROOM, and the reply carries
the count of pinned entries after the request; on a handle that is not good they are STALE_HANDLE (R125), and on an entry number
above 11 BAD_ARGUMENT (R120), and nothing else changes.
That the reply of a fifth pin has an empty body is read by the model (log 20), and that the count is one byte (log 18). -/
def Obligations.CloseAndPinKeys : Prop :=
  (∀ (ch : Chan) (s : State) (n ep : Byte), s.request ch 0x41#8 = some [n, ep] →
    (11 < n.toNat → exec (.closeKey ch) s = .next (s.reply ch .badArgument [])) ∧
    (n.toNat ≤ 11 → (∀ c, s.ctx.entries[n.toNat]? = some { epoch := ep, ctx := some c } → c.owner ≠ ch) →
      exec (.closeKey ch) s = .next (s.reply ch .staleHandle [])) ∧
    (n.toNat ≤ 11 → ∀ c, s.ctx.entries[n.toNat]? = some { epoch := ep, ctx := some c } → c.owner = ch →
      exec (.closeKey ch) s =
        .next ({ s with ctx := { s.ctx with entries := s.ctx.entries.set n.toNat { epoch := ep + 1#8, ctx := none } } }.reply
          ch .ok [ep + 1#8]))) ∧
  (∀ (ch : Chan) (s : State) (n ep : Byte) (c : Ctx), n.toNat ≤ 11 →
    s.ctx.entries[n.toNat]? = some { epoch := ep, ctx := some c } → c.owner = ch →
    ∀ t : Bool → CtxTable,
      (∀ v, t v = { s.ctx with entries := s.ctx.entries.set n.toNat { epoch := ep, ctx := some { c with pinned := v } } }) →
      (s.request ch 0x42#8 = some [n, ep] →
        (c.pinned = true → exec (.pinKey ch) s = .next (s.reply ch .ok [byte s.ctx.pinnedCount])) ∧
        (c.pinned = false → 4 ≤ s.ctx.pinnedCount → exec (.pinKey ch) s = .next (s.reply ch .noRoom [])) ∧
        (c.pinned = false → s.ctx.pinnedCount < 4 →
          exec (.pinKey ch) s = .next ({ s with ctx := t true }.reply ch .ok [byte (t true).pinnedCount]))) ∧
      (s.request ch 0x43#8 = some [n, ep] →
        exec (.unpinKey ch) s = .next ({ s with ctx := t false }.reply ch .ok [byte (t false).pinnedCount]))) ∧
  (∀ (ch : Chan) (s : State) (n ep : Byte) (c : Instr),
    s.request ch 0x42#8 = some [n, ep] ∧ c = .pinKey ch ∨ s.request ch 0x43#8 = some [n, ep] ∧ c = .unpinKey ch →
    (11 < n.toNat → exec c s = .next (s.reply ch .badArgument [])) ∧
    (n.toNat ≤ 11 → (∀ x, s.ctx.entries[n.toNat]? = some { epoch := ep, ctx := some x } → x.owner ≠ ch) →
      exec c s = .next (s.reply ch .staleHandle [])))

/-- LIST CONTEXTS gives the counts of FREE and pinned entries of the whole table and one item for each entry of the channel, in
ascending entry number, with its epoch, slot, generation, kind, flags, binding mask, pinned flag and use rank, and a signing
key's public half; it changes nothing else (R126).
Where the reply's bytes stand is read by the model (log 18). -/
def Obligations.ListContextsReportsTheTable : Prop :=
  ∀ (ch : Chan) (s : State), s.request ch 0x44#8 = some [] →
    ∃ items : List Bytes,
      exec (.listContexts ch) s =
        .next (s.reply ch .ok
          ([byte (s.ctx.entries.filter fun e => e.ctx.isNone).length,
            byte (s.ctx.entries.filter fun e => e.ctx.any fun c => c.pinned).length, byte items.length] ++ items.flatten)) ∧
      items.length = (s.ctx.entries.filter fun e => e.ctx.any fun c => c.owner == ch).length ∧
      ∀ i ep c, s.ctx.entries[i]? = some { epoch := ep, ctx := some c } → c.owner = ch →
        items[((s.ctx.entries.take i).filter fun e => e.ctx.any fun x => x.owner == ch).length]? =
          some ([byte i, ep, byte c.slot] ++ be 4 c.gen.toNat ++ [c.kind.code, c.flags, flagByte c.needsOwner, c.mask,
              flagByte c.pinned,
              byte ((s.ctx.entries.filter fun e => e.ctx.any fun x => x.owner == ch && c.stamp < x.stamp).length + 1)]
            ++ optBytes (if c.kind = .signingKey then some (slice c.material 32 64) else none))

/-- READ LANES gives the eight lane values in ascending number and then the log length, and changes nothing else (R145).
READ LOG gives the log length, the number of entries returned, and those entries from the first index on, each with its
index; a first index above 47 or a count outside 1..16 is BAD_ARGUMENT (R146).
That the log length and the number of entries are one byte each is read by the model (log 18). -/
def Obligations.ReadLanesAndReadLog : Prop :=
  (∀ (ch : Chan) (s : State), s.request ch 0x51#8 = some [] →
    exec (.readLanes ch) s =
      .next (s.reply ch .ok
        (s.meas.lane 0 ++ s.meas.lane 1 ++ s.meas.lane 2 ++ s.meas.lane 3 ++ s.meas.lane 4 ++ s.meas.lane 5 ++ s.meas.lane 6
          ++ s.meas.lane 7 ++ [byte s.meas.log.length]))) ∧
  (∀ (ch : Chan) (s : State) (f c : Byte), s.request ch 0x52#8 = some [f, c] →
    (f.toNat ≤ 47 → 1 ≤ c.toNat → c.toNat ≤ 16 →
      ∃ items : List Bytes,
        exec (.readLog ch) s =
          .next (s.reply ch .ok ([byte s.meas.log.length, byte items.length] ++ items.flatten)) ∧
        items.length = min c.toNat (s.meas.log.length - f.toNat) ∧
        ∀ i e, i < c.toNat → s.meas.log[f.toNat + i]? = some e →
          items[i]? =
            some ([byte (f.toNat + i), byte e.lane, e.source.code, byte e.label.length] ++ e.label ++ e.digest)) ∧
    (47 < f.toNat ∨ c = 0#8 ∨ 16 < c.toNat → exec (.readLog ch) s = .next (s.reply ch .badArgument [])))

/-- READ BOOT STATE reports the boot controller's RAM and the check in progress, and changes nothing else (R172).
ADMISSION STATUS reports the admission and changes nothing else (R180): state, reason when FAILED, bank, segment index in HASHING and
segment count in PASSED, bytes remaining in HASHING, the manifest's epochs and its digest once computed from CHECKING on and in PASSED,
and whether the flash is held.
Where the replies' bytes stand and how wide they are is read by the model (log 18). That the factory floor outcomes are absent until
all three are known, and the pass record status until its job has an outcome, are the model's readings (log 39, log 43), and that the
flash is not held for an admission outside RELEASED, where FOWN belongs to the boot phase (log 48). That each factory floor outcome
gives the value reached after OK as after OTP_FAULT, with no presence byte, is the model's reading of R172 (log 49). -/
def Obligations.BootAndAdmissionStatus : Prop :=
  (∀ (ch : Chan) (s : State), s.request ch 0x60#8 = some [] →
    exec (.readBootState ch) s =
      .next (s.reply ch .ok
        ([s.boot.state.code, s.boot.mode.code, bankCode s.boot.booted] ++ bootRecPayload s.boot.record
          ++ optBytes (if s.checker.work = .boot then
              some ([s.checker.bank.code, s.checker.state.code, byte s.checker.segIndex] ++ be 4 s.checker.descRem) else none)
          ++ [flagByte s.releaseHeld, s.boot.reason0.code, s.boot.reason1.code]
          ++ optBytes (s.boot.passStatus.map fun st => [st.code])
          ++ optBytes (if s.boot.factory.length = 3 then
              some (s.boot.factory.flatMap fun o => [o.status.code, byte o.value]) else none)))) ∧
  (∀ (ch : Chan) (s : State) (segment manifest : Option Bytes), s.request ch 0x71#8 = some [] →
    segment =
      (match s.checker.adm with
        | .hashing => some [byte s.checker.segIndex]
        | .passed => s.checker.result.map fun r => [byte r.segs]
        | .idle | .claiming | .reading | .checking | .committing | .failed => none) →
    manifest =
      (match s.checker.adm with
        | .checking | .hashing | .committing =>
          some (epochsBytes (manifestEpochs s.checker.manifest) ++ optBytes s.checker.manDigest)
        | .passed => s.checker.result.map fun r => epochsBytes r.epochs ++ [1#8] ++ r.digest
        | .idle | .claiming | .reading | .failed => none) →
    exec (.admissionStatus ch) s =
      .next (s.reply ch .ok
        ([s.checker.adm.code]
          ++ optBytes ((if s.checker.adm = .failed then s.checker.admReason else none).map fun r => [r.code])
          ++ [bankCode s.checker.admBank] ++ optBytes segment
          ++ optBytes (if s.checker.adm = .hashing then some (be 4 s.checker.descRem) else none) ++ optBytes manifest
          ++ [flagByte (s.checker.fown && s.boot.state == .released)])))

/-- A request that carries an empty body refuses every other body with BAD_ARGUMENT and does nothing else (R8, R191), when no
block has anything left to start.
That this check comes before every other check of a request is the model's reading (log 21). -/
def Obligations.BodiesOfEmptyRequestsAreRefused : Prop :=
  ∀ (ch : Chan) (s : State) (b : Byte) (more : Bytes), s.quiet = true →
    (∀ code c, (code, c) ∈ [(0x01#8, Instr.identify ch), (0x02#8, Instr.readEvents ch), (0x20#8, Instr.readStoreHealth ch),
        (0x44#8, Instr.listContexts ch), (0x51#8, Instr.readLanes ch), (0x60#8, Instr.readBootState ch),
        (0x62#8, Instr.restartPlatform ch), (0x71#8, Instr.admissionStatus ch)] →
      s.request ch code = some (b :: more) → exec c s = .next (s.reply ch .badArgument [])) ∧
    (∀ code c, (code, c) ∈ [(0x11#8, Instr.generateDeviceKeys), (0x13#8, Instr.seal), (0x22#8, Instr.freezeGuard),
        (0x34#8, Instr.ownerReset s.rcv), (0x61#8, Instr.releaseRecovery)] →
      s.request .S code = some (b :: more) → exec c s = .next (s.reply .S .badArgument [])) ∧
    (∀ code c, (code, c) ∈ [(0x31#8, Instr.endOwner), (0x72#8, Instr.abortAdmission), (0x73#8, Instr.confirmBoot)] →
      s.request .A code = some (b :: more) → exec c s = .next (s.reply .A .badArgument []))

/-! ### Requests that file work

`quiet`: no block has anything left to start; `Engine.free` and `Store.idle`: the engine and the store controller have nothing to
do. Then the work that a request files starts within the command (the model's choice, log 11). -/

/-- SET SETTING refuses a number outside 1..7; otherwise the value is clamped and a job of slot 0 with all seven values, the
clamped one among them, is filed, which the store takes at once when it is idle; with slot 0's generation at its top the request
is refused and RAM keeps the old value (R22).
That the work a request files starts within the command is the model's choice (log 11). -/
def Obligations.SetSettingFilesTheWrite : Prop :=
  ∀ (s : State) (n : Byte) (v : Bytes), s.quiet = true → s.request .S 0x04#8 = some (n :: v) → v.length = 4 →
    (n = 0#8 ∨ 7 < n.toNat → exec .setSetting s = .next (s.reply .S .badArgument [])) ∧
    (1 ≤ n.toNat → n.toNat ≤ 7 → s.store.idle = true → ∀ w,
      w = (match n.toNat with
        | 1 | 2 => min 0xFFF000 (beNat v) / 4096 * 4096
        | 3 => max 65536 (min 16777216 (beNat v)) / 4096 * 4096
        | 4 => max 60 (min 3600 (beNat v))
        | 5 | 6 => beNat v % 8
        | _ => beNat v % 64) →
      (∀ st p, s.store.gen 0 ≠ 0xFFFFFFFF#32 → s.store.place = some (st, p) →
        exec .setSetting s =
          .next { s.setWork .S .setSetting with
            store := st.writes
              { slot := 0, record := plainRec .settings (settingsPayload (s.settings.set n.toNat w)), expected := none,
                writer := .settingsWriter, chan := some .S, filer := .settings n.toNat w, orphan := false } p }) ∧
      (s.store.gen 0 = 0xFFFFFFFF#32 → exec .setSetting s = .next (s.reply .S .wrongState [])))

/-- The four provisioning requests: refused in the wrong lifecycle or under the further conditions of their rules, and otherwise
their operation or engine job begins (R45 to R49). SEAL begins at the first of the locks of pages 2, 1 and 0 that is not set.
That a body of the wrong length is BAD_ARGUMENT in every lifecycle is the model's reading (log 21).
That the work a request files starts within the command is the model's choice (log 11). -/
def Obligations.ProvisioningRequestsAreTaken : Prop :=
  ∀ s : State, s.quiet = true →
    (∀ args, s.request .S 0x10#8 = some args →
      (args.length ≠ 21 → exec .writeIdentity s = .next (s.reply .S .badArgument [])) ∧
      (args.length = 21 → s.ota.lifecycle ≠ .blank →
        exec .writeIdentity s = .next (s.reply .S .wrongState [s.ota.lifecycle.code])) ∧
      (args.length = 21 → s.ota.lifecycle = .blank → s.ota.current = none → s.ota.cells.locked 0 = false →
        exec .writeIdentity s =
          .next { s.setWork .S .writeIdentity with
            ota := { s.ota with current := some { op := .identity (identityRecord args), pos := 0 } } })) ∧
    (s.request .S 0x11#8 = some [] →
      (s.ota.lifecycle ≠ .personalized ∨ s.ota.keysExist = true ∨ s.ota.cells.locked 1 = true →
        exec .generateDeviceKeys s = .next (s.reply .S .wrongState [s.ota.lifecycle.code])) ∧
      (s.ota.lifecycle = .personalized → s.ota.keysExist = false → s.ota.cells.locked 1 = false →
        (s.ota.cells.spoiled = true → exec .generateDeviceKeys s = .next (s.reply .S .otpFault [])) ∧
        (s.ota.cells.spoiled = false → s.engine.free = true →
          exec .generateDeviceKeys s =
            .next { s.setWork .S .keysSeed with engine := s.engine.runs .S (.keygen .deviceSeed) }))) ∧
    (∀ key, s.request .S 0x12#8 = some key →
      (key.length ≠ 64 → exec .installRoot s = .next (s.reply .S .badArgument [])) ∧
      (key.length = 64 →
        (s.ota.lifecycle = .sealed ∨ s.ota.lifecycle = .failed ∨ s.ota.cells.locked 2 = true →
          exec .installRoot s = .next (s.reply .S .wrongState [s.ota.lifecycle.code])) ∧
        (s.ota.lifecycle = .blank ∨ s.ota.lifecycle = .personalized → s.ota.cells.locked 2 = false → s.engine.free = true →
          exec .installRoot s =
            .next { s.setWork .S .rootDigest with
              engine := s.engine.runs .S (.finishDigest .root DigestState.fresh key) }))) ∧
    (s.request .S 0x13#8 = some [] →
      (s.ota.lifecycle ≠ .personalized ∨ s.ota.keysExist = false ∨ s.ota.rootCount = 0 →
        exec .seal s = .next (s.reply .S .wrongState [s.ota.lifecycle.code])) ∧
      (∀ pos, s.ota.lifecycle = .personalized → s.ota.keysExist = true → s.ota.rootCount ≠ 0 → s.ota.current = none →
        (s.ota.cells.locked 2 = false ∧ pos = 0 ∨
          s.ota.cells.locked 2 = true ∧ s.ota.cells.locked 1 = false ∧ pos = 1 ∨
          s.ota.cells.locked 2 = true ∧ s.ota.cells.locked 1 = true ∧ s.ota.cells.locked 0 = false ∧ pos = 2) →
        exec .seal s =
          .next { s.setWork .S .seal with ota := { s.ota with current := some { op := .seal, pos := pos } } }))

/-- One programming step of the one-time array. A byte: the wanted bits are cleared but for the stuck ones; read back as intended
it takes the operation to its next byte, else the operation ends there with OTP_FAULT: an identity with the count of copies written in
full (R46), keys with part 1 or 2, or with the attestation key claimed when they exist all the same (R47), a root with its entry and
part (R48). The last byte of an identity, of the device keys (whose
attestation key is then claimed) and of a root (whose notice begins bank choice in WAITING). A counter bit: the RAM value rises to the
bit number plus one, and with the target's last bit the advance ends OK. A lock bit: the next lock that is not yet set. A retired-map
bit: the outcome, and a fault record when the bit stays set (R35, R40, R42, R43, R45 to R49, R73).
The places of the fields in the pages, and the lifecycle byte at the end of a reply, are read by the model (log 7, log 19).
That what a block is given starts within the command is the model's choice (log 11). -/
def Obligations.OneTimeProgrammingSteps : Prop :=
  ∀ s : State, s.quiet = true →
    (∀ op pos v next stuck, s.ota.current = some { op := op, pos := pos } → op.byteAt pos = some v →
      (s.ota.cells.prog op pos v stuck).target op pos = v → op.byteAt (pos + 1) = some next →
      exec (.otaByteProgrammed stuck) s =
        .next { s with ota := { s.ota with cells := s.ota.cells.prog op pos v stuck,
                                           current := some { op := op, pos := pos + 1 } } }) ∧
    (∀ op pos v stuck u, s.ota.current = some { op := op, pos := pos } → op.byteAt pos = some v →
      (s.ota.cells.prog op pos v stuck).target op pos ≠ v →
      u = { s with ota := { s.ota with cells := s.ota.cells.prog op pos v stuck } } →
      exec (.otaByteProgrammed stuck) s = .next (u.bytesEnded op pos).settle) ∧
    (∀ copy pos v stuck cells ota, s.ota.current = some { op := .identity copy, pos := pos } → pos < 256 →
      v = byteAt copy (pos % 64) →
      cells = { s.ota.cells with page0 := s.ota.cells.page0.set pos (byteAt s.ota.cells.page0 pos &&& (v ||| stuck)) } →
      byteAt cells.page0 pos ≠ v → ota = ({ s.ota with cells := cells, current := none } : Ota).judge →
      ota.rootCount = s.ota.rootCount →
      exec (.otaByteProgrammed stuck) s =
        .next (({ s with ota := ota } : State).reply .S .otpFault [byte (pos / 64), cells.lifecycle.code]).settle) ∧
    (∀ (seed : Bytes) (pos : Nat) (v stuck : Byte) (cells : Cells) (ota : Ota) (present : Prop),
      s.ota.current = some { op := .keys seed, pos := pos } → seed.length = 32 →
      pos < 32 ∧ v = byteAt seed pos ∧ byteAt cells.seed pos ≠ v ∧
          cells = { s.ota.cells with seed := s.ota.cells.seed.set pos (byteAt s.ota.cells.seed pos &&& (v ||| stuck)) } ∨
        32 ≤ pos ∧ pos < 64 ∧ v = ~~~ byteAt seed (pos - 32) ∧ byteAt cells.seedCompl (pos - 32) ≠ v ∧
          cells = { s.ota.cells with
            seedCompl := s.ota.cells.seedCompl.set (pos - 32) (byteAt s.ota.cells.seedCompl (pos - 32) &&& (v ||| stuck)) } ∨
        pos = 64 ∧ cells.keysMarker ≠ 0#8 ∧ cells = { s.ota.cells with keysMarker := s.ota.cells.keysMarker &&& stuck } →
      ota = ({ s.ota with cells := cells, current := none } : Ota).judge → ota.rootCount = s.ota.rootCount →
      (present ↔ cells.keysMarker ≠ 0xFF#8 ∧ cells.seedCompl = cells.seed.map (~~~ ·)) →
      (present →
        exec (.otaByteProgrammed stuck) s =
          .next ((({ s with ota := ota } : State).setWork .S (.keysAttest .otpFault)).fileClaim .S
            (.keygen (.attestation seed))).settle) ∧
      (¬ present →
        exec (.otaByteProgrammed stuck) s =
          .next (({ s with ota := ota } : State).reply .S .otpFault
            [if pos < 64 then 1#8 else 2#8, 0#8, cells.lifecycle.code]).settle)) ∧
    (∀ (e : Nat) (d : Bytes) (pos : Nat) (stuck : Byte) (r q : RootCells) (cells : Cells) (ota : Ota) (told : Prop) (body : Bytes),
      s.ota.current = some { op := .root e d, pos := pos } → s.ota.cells.roots[e]? = some r →
      pos < 32 ∧ q = { r with digest := r.digest.set pos (byteAt r.digest pos &&& (byteAt d pos ||| stuck)) } ∧
          byteAt q.digest pos ≠ byteAt d pos ∨
        pos = 32 ∧ q = { r with marker := r.marker &&& stuck } ∧ q.marker ≠ 0#8 →
      cells = { s.ota.cells with roots := s.ota.cells.roots.set e q } →
      ota = ({ s.ota with cells := cells, current := none } : Ota).judge →
      (told ↔ ota.rootCount ≠ s.ota.rootCount ∧ 0 < ota.rootCount ∧ s.boot.stage = .waiting ∧ cells.lifecycle ≠ .failed) →
      body = [byte e, if pos < 32 then 1#8 else 2#8, cells.lifecycle.code] →
      (¬ told → exec (.otaByteProgrammed stuck) s = .next (({ s with ota := ota } : State).reply .S .otpFault body).settle) ∧
      (told →
        exec (.otaByteProgrammed stuck) s = .next (({ s with ota := ota } : State).bankChoice.reply .S .otpFault body).settle)) ∧
    (∀ copy v stuck cells ota, s.ota.current = some { op := .identity copy, pos := 255 } → byteAt copy 63 = v →
      cells = { s.ota.cells with page0 := s.ota.cells.page0.set 255 (byteAt s.ota.cells.page0 255 &&& (v ||| stuck)) } →
      byteAt cells.page0 255 = v → ota = ({ s.ota with cells := cells, current := none } : Ota).judge →
      ota.rootCount = s.ota.rootCount → s.ota.queue = [] →
      exec (.otaByteProgrammed stuck) s =
        .next ({ s with ota := ota }.reply .S .ok [4#8, cells.lifecycle.code])) ∧
    (∀ k target filer pos, s.ota.current = some { op := .advance k target filer, pos := pos } → pos + 1 < min target k.top →
      exec (.counterBitProgrammed true) s =
        .next { s with ota := { ({ s.ota with cells := s.ota.cells.clearCounter k pos true } : Ota).setValue k (pos + 1) with
                                  current := some { op := .advance k target filer, pos := pos + 1 } } }) ∧
    (∀ seed stuck cells ota, s.ota.current = some { op := .keys seed, pos := 64 } → seed.length = 32 →
      s.ota.cells.keysMarker &&& stuck = 0#8 →
      cells = { s.ota.cells with keysMarker := 0#8 } → ota = ({ s.ota with cells := cells, current := none } : Ota).judge →
      ota.rootCount = s.ota.rootCount →
      (ota.keysExist = true →
        exec (.otaByteProgrammed stuck) s =
          .next ((({ s with ota := ota } : State).setWork .S (.keysAttest .ok)).fileClaim .S
            (.keygen (.attestation seed))).settle) ∧
      (ota.keysExist = false →
        exec (.otaByteProgrammed stuck) s =
          .next (({ s with ota := ota } : State).reply .S .otpFault [2#8, 0#8, cells.lifecycle.code]).settle)) ∧
    (∀ e d stuck r cells ota, s.ota.current = some { op := .root e d, pos := 32 } → s.ota.cells.roots[e]? = some r →
      r.marker &&& stuck = 0#8 →
      cells = { s.ota.cells with roots := s.ota.cells.roots.set e { r with marker := 0#8 } } →
      ota = ({ s.ota with cells := cells, current := none } : Ota).judge →
      (ota.rootCount = s.ota.rootCount ∨ s.boot.stage ≠ .waiting ∨ cells.lifecycle = .failed →
        exec (.otaByteProgrammed stuck) s =
          .next (({ s with ota := ota } : State).reply .S .ok ([byte e] ++ d ++ [cells.lifecycle.code])).settle) ∧
      (ota.rootCount ≠ s.ota.rootCount → 0 < ota.rootCount → s.boot.stage = .waiting → cells.lifecycle ≠ .failed →
        exec (.otaByteProgrammed stuck) s =
          .next (({ s with ota := ota } : State).bankChoice.reply .S .ok ([byte e] ++ d ++ [cells.lifecycle.code])).settle)) ∧
    (∀ k target filer pos ota, s.ota.current = some { op := .advance k target filer, pos := pos } →
      pos + 1 = min target k.top →
      ota = { ({ s.ota with cells := s.ota.cells.clearCounter k pos true } : Ota).setValue k (pos + 1) with current := none } →
      exec (.counterBitProgrammed true) s = .next (({ s with ota := ota } : State).advanceEnded k filer .ok).settle) ∧
    (∀ k target filer pos, s.ota.current = some { op := .advance k target filer, pos := pos } →
      s.ota.cells.counterBit k pos = true →
      exec (.counterBitProgrammed false) s =
        .next (({ s with ota := { s.ota with current := none } } : State).advanceEnded k filer .otpFault).settle) ∧
    (∀ pos p cells, s.ota.current = some { op := .seal, pos := pos } → pos ≤ 2 →
      cells = { s.ota.cells with locks := s.ota.cells.locks ||| 1#5 <<< (2 - pos) } → cells.nextLock (pos + 1) = some p →
      exec (.lockBitProgrammed true) s =
        .next { s with ota := { s.ota with cells := cells, current := some { op := .seal, pos := p } } }) ∧
    (∀ pos cells ota, s.ota.current = some { op := .seal, pos := pos } → pos ≤ 2 →
      cells = { s.ota.cells with locks := s.ota.cells.locks ||| 1#5 <<< (2 - pos) } → cells.nextLock (pos + 1) = none →
      ota = ({ s.ota with cells := cells, current := none } : Ota).judge → ota.rootCount = s.ota.rootCount →
      s.ota.queue = [] →
      exec (.lockBitProgrammed true) s = .next ({ s with ota := ota }.reply .S .ok [cells.lifecycle.code])) ∧
    (∀ pos ota, s.ota.current = some { op := .seal, pos := pos } → pos ≤ 2 → s.ota.cells.locked (2 - pos) = false →
      ota = ({ s.ota with current := none } : Ota).judge → ota.rootCount = s.ota.rootCount → s.ota.queue = [] →
      exec (.lockBitProgrammed false) s =
        .next ({ s with ota := ota }.reply .S .otpFault [byte (2 - pos), s.ota.cells.lifecycle.code])) ∧
    (∀ b pos, s.ota.current = some { op := .retire b, pos := pos } → s.ota.queue = [] → s.store.marksHeld = [] →
      exec (.retireBitProgrammed true) s =
        .next { s with ota := { s.ota with cells := { s.ota.cells with retired := s.ota.cells.retired &&& ~~~ (1#40 <<< b) },
                                           current := none },
                       store := { s.store with markOut := false } } ∧
      (s.ota.cells.retired.getLsbD b = true →
        exec (.retireBitProgrammed false) s =
          .next (({ s with ota := { s.ota with current := none },
                           store := { s.store with
                             markOut := false,
                             fault := some (match s.store.fault with
                               | none => { kind := .retireMarkFailed, block := some b, uptime := s.owner.uptime, more := false }
                               | some f => { f with more := true }) } }.raise .S .storeFault).raise .A .storeFault)))

/-- The layouts of the argument bodies of several fields: what a host lays out by table 11.2.2 and R191 is read back field by field,
for every value the layout admits, and one byte more makes the body none of its request. SET VERIFIER clamps the parameters it is given
in the order F, B, C, L, P, a given L of 0 staying 0, and takes F 5, B 2, C 3600, L 20, P 30 when it is given none (R100, R114). -/
def Obligations.ArgumentLayouts : Prop :=
  (∀ (slot flags mask : Byte) (k : Kind) (d : Domain) (needs : Bool) (comp label payload : Bytes) (g : Option Word) (more : Byte)
      (body : Bytes),
    comp.length = 32 → (mask = 0#8 → comp = List.replicate 32 0#8) → label.length < 256 → payload.length < 256 →
    body = [slot, k.code, d.code, flags, flagByte needs, mask] ++ (if mask = 0#8 then [] else comp)
      ++ [byte label.length] ++ label ++ [byte payload.length] ++ payload ++ optBytes (g.map fun x => be 4 x.toNat) →
    parseSlotArgs body =
      some { slot := slot.toNat,
             r := { kind := k, domain := some d, flags := flags, needsOwner := needs, mask := mask, composite := comp,
                    label := label, payload := payload }, expected := g } ∧
    parseSlotArgs (body ++ [more]) = none) ∧
  (∀ (slot : Byte) (pw : Bytes) (F B L : Byte) (C : Word) (P : BitVec 16) (g : Option Word) (more : Byte) (body : Bytes),
    1 ≤ pw.length → pw.length ≤ 64 →
    body = [slot, byte pw.length] ++ pw ++ [1#8, F, B] ++ be 4 C.toNat ++ [L] ++ be 2 P.toNat
      ++ optBytes (g.map fun x => be 4 x.toNat) →
    parseSetVerifier body =
      some { slot := slot.toNat, password := pw, expected := g,
             params := Params.clamped { F := F.toNat, B := B.toNat, C := C.toNat, L := L.toNat, P := P.toNat } } ∧
    parseSetVerifier (body ++ [more]) = none) ∧
  (∀ (slot : Byte) (pw : Bytes) (g : Option Word) (more : Byte) (body : Bytes),
    1 ≤ pw.length → pw.length ≤ 64 →
    body = [slot, byte pw.length] ++ pw ++ [0#8] ++ optBytes (g.map fun x => be 4 x.toNat) →
    parseSetVerifier body =
      some { slot := slot.toNat, password := pw, expected := g, params := { F := 5, B := 2, C := 3600, L := 20, P := 30 } } ∧
    parseSetVerifier (body ++ [more]) = none) ∧
  (∀ (p : Params) (F B : Nat), F = min 15 p.F → B = max 1 (min 255 p.B) →
    p.clamped =
      { F := F, B := B, C := max B (min 86400 p.C), L := if p.L = 0 then 0 else max (F + 1) (min 255 p.L), P := min 10080 p.P }) ∧
  (∀ (slot more : Byte) (g : Option Word) (body : Bytes), body = slot :: optBytes (g.map fun x => be 4 x.toNat) →
    parseDeleteSlot body = some (slot.toNat, g) ∧ parseDeleteSlot (body ++ [more]) = none) ∧
  (∀ (slot more : Byte) (cand body : Bytes), 1 ≤ cand.length → cand.length ≤ 64 → body = [slot, byte cand.length] ++ cand →
    parseVerifyOwner body = some (slot.toNat, cand) ∧ parseVerifyOwner (body ++ [more]) = none) ∧
  (∀ (n ep more : Byte) (digest info body : Bytes) (h : Handle), n.toNat ≤ 11 → h = { entry := n.toNat, epoch := ep } →
    (digest.length = 32 → body = [n, ep] ++ digest → parseSign body = some (h, digest) ∧ parseSign (body ++ [more]) = none) ∧
    (info.length ≤ 64 → body = [n, ep, byte info.length] ++ info →
      parseDerive body = some (h, info) ∧ parseDerive (body ++ [more]) = none)) ∧
  (∀ (lane : Byte) (digest label : Bytes) (more : Byte) (body : Bytes),
    lane.toNat ≤ 7 → digest.length = 32 → label.length ≤ 16 → body = [lane] ++ digest ++ [byte label.length] ++ label →
    parseExtend body = some { lane := lane.toNat, digest := digest, label := label } ∧ parseExtend (body ++ [more]) = none) ∧
  (∀ (nonce : Bytes) (mask more : Byte) (body : Bytes),
    8 ≤ nonce.length → nonce.length ≤ 32 → body = [byte nonce.length] ++ nonce ++ [mask] →
    parseQuote body = some (nonce, mask) ∧ parseQuote (body ++ [more]) = none)

/-- WRITE SLOT and GENERATE KEY: the checks of R83 and R85 in their order, and then the write job or the KEYGEN job; a job that
the store takes is judged again there, by its expected generation, the guard and the overwrite check (R63, R75, R83 to R85).
DELETE SLOT: NO_SLOT with the generation for a slot without a record, NOT_PERMITTED without the write right (over OWNER for a
verifier), and otherwise the tombstone's job (R86, R84).
The tables of those checks: payload, use flags and options of a kind (R80, R83, R85), kinds of a domain, and the write right with the
owner grant it needs (R81); a judgment that finds a needed grant active sets its last-use time (R82).
That the work a request files starts within the command is the model's choice (log 11). -/
def Obligations.SlotWritesAndDeletes : Prop :=
  (∀ (ch : Chan) (s : State) (body : Bytes) (a : SlotArgs), s.quiet = true → parseSlotArgs body = some a →
    (s.request ch 0x28#8 = some body →
      (goodWriteArgs a = false ∨ goodSlotFields a.r = false →
        exec (.writeSlot ch) s = .next (s.reply ch .badArgument [])) ∧
      (goodWriteArgs a = true → goodSlotFields a.r = true →
        (s.mayWrite ch a.r.domain = false → exec (.writeSlot ch) s = .next (s.reply ch .notPermitted [])) ∧
        (s.mayWrite ch a.r.domain = true → s.store.idle = true →
          (∀ g, a.expected = some g → g ≠ s.store.gen a.slot →
            exec (.writeSlot ch) s =
              .next ((s.afterUse (grantNeeded a.r.domain)).reply ch .generationMismatch (be 4 (s.store.gen a.slot).toNat))) ∧
          (a.expected = none ∨ a.expected = some (s.store.gen a.slot) → s.guard.allows a.slot = false →
            exec (.writeSlot ch) s = .next ((s.afterUse (grantNeeded a.r.domain)).reply ch .guarded [])) ∧
          (a.expected = none ∨ a.expected = some (s.store.gen a.slot) → s.guard.allows a.slot = true →
            s.store.gen a.slot ≠ 0xFFFFFFFF#32 →
            (∀ r, s.store.keptRec a.slot = some r → r.kind = .verifier →
              exec (.writeSlot ch) s = .next ((s.afterUse (grantNeeded a.r.domain)).reply ch .slotKind [])) ∧
            (∀ r, s.store.keptRec a.slot = some r → r.kind ≠ .verifier → s.mayWrite ch r.domain = false →
              exec (.writeSlot ch) s = .next ((s.afterUse (grantNeeded a.r.domain)).reply ch .notPermitted [])) ∧
            (∀ needed st p, s.store.place = some (st, p) →
              (s.store.keptRec a.slot = none ∧ needed = grantNeeded a.r.domain ∨
                ∃ r, s.store.keptRec a.slot = some r ∧ r.kind ≠ .verifier ∧ s.mayWrite ch r.domain = true ∧
                  needed = (grantNeeded a.r.domain || grantNeeded r.domain)) →
              exec (.writeSlot ch) s =
                .next { (s.afterUse needed).setWork ch .writeSlot with
                  store := st.writes
                    { slot := a.slot, record := a.r, expected := a.expected, writer := .channelRequest, chan := some ch,
                      filer := .writeSlot, orphan := false } p }))))) ∧
    (s.request ch 0x29#8 = some body →
      (goodGenerateArgs a = false ∨ goodSlotFields a.r = false →
        exec (.generateKey ch) s = .next (s.reply ch .badArgument [])) ∧
      (goodGenerateArgs a = true → goodSlotFields a.r = true →
        (s.mayWrite ch a.r.domain = false → exec (.generateKey ch) s = .next (s.reply ch .notPermitted [])) ∧
        (s.mayWrite ch a.r.domain = true → s.engine.free = true →
          exec (.generateKey ch) s =
            .next { (s.afterUse (grantNeeded a.r.domain)).setWork ch (.generateKeygen a.slot a.r a.expected) with
              engine := s.engine.runs (match ch with | .S => Claimant.S | .A => Claimant.A)
                (.keygen (if a.r.kind = .signingKey then .signingKey else .linkKey)) })))) ∧
  (∀ (ch : Chan) (s : State) (n : Byte) (g : Option Word), s.quiet = true →
    s.request ch 0x2A#8 = some (n :: optBytes (g.map fun x => be 4 x.toNat)) → 1 ≤ n.toNat → n.toNat ≤ 254 →
    (s.store.keptRec n.toNat = none →
      exec (.deleteSlot ch) s = .next (s.reply ch .noSlot (be 4 (s.store.gen n.toNat).toNat))) ∧
    (∀ r d, s.store.keptRec n.toNat = some r → d = (if r.kind = .verifier then some .owner else r.domain) →
      (s.mayWrite ch d = false → exec (.deleteSlot ch) s = .next (s.reply ch .notPermitted [])) ∧
      (∀ st p, s.mayWrite ch d = true → s.store.idle = true → g = none ∨ g = some (s.store.gen n.toNat) →
        s.guard.allows n.toNat = true → s.store.gen n.toNat ≠ 0xFFFFFFFF#32 → s.store.place = some (st, p) →
        exec (.deleteSlot ch) s =
          .next { (s.afterUse (grantNeeded d)).setWork ch .deleteSlot with
            store := st.writes
              { slot := n.toNat, record := tombstone, expected := g, writer := .channelRequest, chan := some ch,
                filer := .deleteSlot, orphan := false } p }))) ∧
  (∀ (a : SlotArgs) (len : Nat), len = a.r.payload.length →
    (goodWriteArgs a = true ↔ 1 ≤ a.slot ∧ a.slot ≤ 254 ∧ a.r.label.length ≤ 24 ∧
      (a.r.kind = .secret ∧ 1 ≤ len ∧ len ≤ 64 ∨ a.r.kind = .linkKey ∧ len = 32 ∨ a.r.kind = .trustAnchor ∧ len = 64)) ∧
    (goodGenerateArgs a = true ↔ 1 ≤ a.slot ∧ a.slot ≤ 254 ∧ a.r.label.length ≤ 24 ∧ len = 0 ∧
      (a.r.kind = .signingKey ∨ a.r.kind = .linkKey))) ∧
  (∀ r : Rec, goodSlotFields r = true ↔
    (∃ d, r.domain = some d ∧
      (d, r.kind) ∈ [(Domain.platform, Kind.signingKey), (.platform, .linkKey), (.update, .trustAnchor), (.owner, .verifier),
        (.network, .secret), (.network, .linkKey), (.client, .secret), (.client, .linkKey), (.client, .signingKey),
        (.service, .signingKey), (.service, .linkKey), (.service, .secret)]) ∧
    (∀ i, r.flags.getLsbD i = true →
      (r.kind, i) ∈ [(Kind.signingKey, 0), (.linkKey, 1), (.secret, 2), (.trustAnchor, 3)]) ∧
    (r.kind = .trustAnchor → r.needsOwner = false ∧ r.mask = 0#8)) ∧
  (∀ (s : State) (ch : Chan) (d : Domain), s.mayWrite ch none = false ∧
    (grantNeeded (some d) = true ↔ d = .owner ∨ d = .network ∨ d = .client) ∧
    (s.mayWrite ch (some d) = true ↔
      (∃ bit, (d, bit) ∈ [(Domain.platform, 0), (.update, 1), (.owner, 2), (.network, 3), (.client, 4), (.service, 5)] ∧
        (match ch with
          | .S => s.chS
          | .A => s.chA).grants.getLsbD bit = true) ∧
      (d, ch) ∈ [(Domain.platform, Chan.S), (.platform, .A), (.update, .S), (.owner, .A), (.network, .A), (.client, .A),
        (.service, .A)] ∧
      (d = .owner ∨ d = .network ∨ d = .client → ∃ g, s.owner.grant = some g)) ∧
    s.afterUse false = s ∧
    (∀ g, s.owner.grant = some g →
      s.afterUse true = { s with owner := { s.owner with grant := some { g with lastUse := s.owner.uptime } } }))

/-! ### The store's array operations (chapter 4) -/

/-- The end of a page program. A good readback commits the job: the page is LIVE under the next generation, the contexts of the
slot are freed, and the outcome goes to the filer, a tombstone's over a record that is no VERIFIER as any other's (R65, R96, R131). A
bad one makes the page used, counts an attempt and voids the
page (R66).
The end of a void: the generation bits are cleared but for those that stay; the job then looks for its next page, or ends with
STORE_FAULT at its third failed attempt; a voided copy is tried again at the target's next page (R53, R66, R69).
That the work a request files starts within the command is the model's choice (log 11). -/
def Obligations.PageProgramAndVoid : Prop :=
  (∀ (s : State) (t : Taken) (page : Nat) (bytes : Bytes),
    s.store.op = some (.program page bytes) → s.store.taken = some t →
    (∀ u, (t.job.record.kind ≠ .empty ∨ t.job.slot = 0 ∨ 255 ≤ t.job.slot ∨
        ∀ old, ({ s.store with mem := Mem.setPage s.store.mem page (fit 256 0xFF#8 bytes) } : Store).liveRec t.job.slot =
          some old → old.kind ≠ .verifier) →
      u = ({ s with store := s.store.committed t.job page bytes }.invalidate fun c => c.slot == t.job.slot) →
      exec (.pageProgramDone none) s = .next (u.deliver t.job (.commit (s.store.gen t.job.slot + 1#32))).settle) ∧
    (∀ u bad, fit 256 0xFF#8 bad ≠ fit 256 0xFF#8 bytes →
      u = { s with store := { s.store.markUsed page with
              mem := Mem.setPage s.store.mem page (fit 256 0xFF#8 bad), taken := some { t with attempts := t.attempts + 1 },
              op := some (.void page) } } →
      exec (.pageProgramDone (some bad)) s = .next u.settle)) ∧
  (∀ (s u : State) (page : Nat) (bad : Option Word),
    (∀ t, s.store.op = some (.void page) → s.store.taken = some t →
      u = { s with
        store := ({ s.store with mem := voidGen s.store.mem page bad, op := none } : Store).fillIfFull (page / 16) } →
      (t.attempts < 3 → exec (.pageVoidDone bad) s = .next u.settle) ∧
      (3 ≤ t.attempts →
        exec (.pageVoidDone bad) s =
          .next (({ u with store := { u.store with taken := none } } : State).deliver t.job (.fail .storeFault)).settle)) ∧
    (s.store.op = some (.copyVoid page) →
      u = { s with store := { s.store with mem := voidGen s.store.mem page bad, op := none } } →
      exec (.pageVoidDone bad) s = .next u.copyNext.settle))

/-- What a commit's outcome gives its filer: a slot request's reply with the new generation, a generated key's public half, the
setting's new RAM value, and the hold-off entry of a new verifier (R22, R84, R85, R115).
A tombstone that commits over a VERIFIER also removes the slot's hold-off entry and ends the owner grant that the slot gave
(R96, R101, R111).
The end of a match write: at its commit the entry's count becomes 0 and the reply carries the new generation; without a commit the
reply is OK all the same and carries the stored count and the store's status (R107).
A job that ends without a commit answers its request with that outcome alone, a mismatch of generation and a slot without a record with
the current generation; RAM keeps the old setting, no hold-off entry is made, and a generated key is not kept (R22, R84, R85, R115).
A job whose request is gone gives no reply: its commit changes the slot's hold-off entry as it would have, and nothing else; its failure
changes nothing (R79, R109).
The order of the replies' bytes and the presence bytes of their optional parts are read by the model from R191 (log 18). That the commit
of a job whose request is gone renews the entry kept with an attempt that waits is the model's reading (log 46).
That the work a command files starts within it is the model's choice (log 11). -/
def Obligations.CommitNotices : Prop :=
  (∀ (s : State) (j : WriteJob) (ch : Chan) (g : Word), j.orphan = false → j.chan = some ch →
    (j.filer = .writeSlot ∨ j.filer = .deleteSlot → s.deliver j (.commit g) = s.reply ch .ok (be 4 g.toNat)) ∧
    (∀ pub, j.filer = .generateKey → (s.chan ch).work = .generateStore pub →
      s.deliver j (.commit g) = s.reply ch .ok (be 4 g.toNat ++ optBytes pub)) ∧
    (∀ n v, j.filer = .settings n v →
      s.deliver j (.commit g) = { s with settings := s.settings.set n v }.reply .S .ok (byte n :: be 4 v)) ∧
    (∀ p, j.filer = .setVerifier → p = verifierParams j.record.payload →
      s.deliver j (.commit g) =
        (s.setHold { slot := j.slot, count := 0, holdUntil := 0, lastEvent := s.owner.uptime }).reply .A .ok
          (be 4 g.toNat ++ [byte p.F, byte p.B] ++ be 4 p.C ++ [byte p.L] ++ be 2 p.P))) ∧
  (∀ (s : State) (j : WriteJob) (ch : Chan) (g : Word) (st : Status), j.orphan = false → j.chan = some ch →
    (j.filer = .writeSlot ∨ j.filer = .deleteSlot ∨ (∃ pub, j.filer = .generateKey ∧ (s.chan ch).work = .generateStore pub) ∨
        j.filer = .setVerifier ∧ ch = .A →
      s.deliver j (.fail st) = s.reply ch st [] ∧ s.deliver j (.withGen st g) = s.reply ch st (be 4 g.toNat)) ∧
    (∀ n v, j.filer = .settings n v → s.deliver j (.fail st) = s.reply .S st [])) ∧
  (∀ (s u v : State) (t : Taken) (page : Nat) (bytes : Bytes) (old : Rec),
    s.store.op = some (.program page bytes) → s.store.taken = some t → t.job.record.kind = .empty →
    1 ≤ t.job.slot → t.job.slot ≤ 254 →
    ({ s.store with mem := Mem.setPage s.store.mem page (fit 256 0xFF#8 bytes) } : Store).liveRec t.job.slot = some old →
    old.kind = .verifier →
    u = ({ s with
            store := s.store.committed t.job page bytes,
            owner := { s.owner with table := s.owner.table.filter fun e => e.slot != t.job.slot } }.invalidate
          fun c => c.slot == t.job.slot) →
    v = (match s.owner.grant with
      | some g =>
        if g.slot = t.job.slot then
          ({ u with owner := { u.owner with grant := none, idleDue := false } }.invalidate fun c => c.needsOwner).raise
            .A .ownerGrantEnded
        else u
      | none => u) →
    exec (.pageProgramDone none) s = .next (v.deliver t.job (.commit (s.store.gen t.job.slot + 1#32))).settle) ∧
  (∀ (s : State) (j : WriteJob) (g : Word) (st : Status), j.filer = .matchWrite → j.orphan = false →
    s.deliver j (.commit g) =
      (s.setHold { s.holdOf j.slot with count := 0 }).reply .A .ok ([1#8] ++ be 4 g.toNat ++ [0#8, 0#8]) ∧
    (∀ c, s.chA.work = .verifyMatch c → s.deliver j (.fail st) = s.reply .A .ok [0#8, byte c, 1#8, st.code])) ∧
  (∀ (s u : State) (j : WriteJob) (g : Word) (st : Status) (o : JobEnd) (x : HoldEntry) (p : Params) (c : Nat),
    j.orphan = true → p = verifierParams j.record.payload → c = verifierCount j.record.payload →
    (j.filer = .writeSlot ∨ j.filer = .deleteSlot ∨ j.filer = .generateKey → s.deliver j o = s) ∧
    (j.filer = .precharge ∧
        x = { slot := j.slot, count := c, holdUntil := min 4294967295 (s.owner.uptime + holdOff p c), lastEvent := s.owner.uptime } ∨
      j.filer = .matchWrite ∧ x = { s.holdOf j.slot with count := 0 } ∨
      j.filer = .setVerifier ∧ x = { slot := j.slot, count := 0, holdUntil := 0, lastEvent := s.owner.uptime } →
      u = s.setHold x →
      s.deliver j (.fail st) = s ∧
      ((∀ n cand before, s.chA.work ≠ .verifyPrecharge n cand before) → s.deliver j (.commit g) = u) ∧
      (∀ n cand before, s.chA.work = .verifyPrecharge n cand before →
        s.deliver j (.commit g) =
          u.setWork .A (.verifyPrecharge n cand (if n = j.slot then u.owner.entry j.slot else before)))))

/-- The end of a copy and the next step of a compaction: the slot map moves to a good copy with its generation unchanged, a bad
copy is voided, the record of the next LIVE page goes, byte for byte and followed by 0xFF, to the target's fill point, and with
none left the target opens and the victim's erase begins (R69, R70).
A block that was OPEN before becomes FILLED at the close (R70). A target without an ERASED page left ends the compaction without an
erase: it becomes FILLED with the copies it holds, the victim stays as it is, and the lowest-numbered FREE block becomes SPARE (R69).
The end of an erase of a victim, and of a recovery erase: a good one leaves the block's pages ERASED and the block SPARE; a bad
one retires the block, holds its retire mark, records ERASE_FAILED, and the lowest-numbered FREE block becomes SPARE (R70, R71,
R61). The retire mark is filed within the command where none is outstanding.
With no FREE block for the spare the store becomes DEGRADED and records that fault too (R71, R72, R73); which block an abandoned
compaction's fault names is read by the model (log 23).
That the work a request files starts within the command is the model's choice (log 11). -/
def Obligations.CompactionCopiesAndErases : Prop :=
  (∀ (s u : State) (src dst : Nat) (bytes : Bytes),
    (s.store.op = some (.copy src dst bytes) →
      (u = { s with store := { s.store.markUsed dst with
                mem := Mem.setPage s.store.mem dst (fit 256 0xFF#8 bytes), op := none,
                map := s.store.map.map fun e => if e.page = src then { e with page := dst } else e } } →
        exec (.copyProgramDone none) s = .next u.copyNext.settle) ∧
      (∀ bad, fit 256 0xFF#8 bad ≠ fit 256 0xFF#8 bytes →
        u = { s with store := { s.store.markUsed dst with
                mem := Mem.setPage s.store.mem dst (fit 256 0xFF#8 bad), op := some (.copyVoid dst) } } →
        exec (.copyProgramDone (some bad)) s = .next u.settle)) ∧
    (∀ c, s.store.comp = some c →
      (∀ p d, (pagesOf c.victim).find? s.store.isLive = some p → s.store.fillPoint c.target = some d →
        s.copyNext = { s with store := { s.store with op := some (.copy p d (fit 256 0xFF#8 (recordOf (Mem.readPage s.store.mem p)))) } }) ∧
      ((pagesOf c.victim).find? s.store.isLive = none → s.store.firstBlock .openBlock = none →
        s.copyNext =
          { s with store := { s.store with
              blocks := s.store.blocks.set c.target
                (if (s.store.fillPoint c.target).isSome then .openBlock else .filled),
              op := some (.erase c.victim) } }) ∧
      (∀ o, (pagesOf c.victim).find? s.store.isLive = none → s.store.firstBlock .openBlock = some o →
        s.copyNext =
          { s with store := { s.store with
              blocks := (s.store.blocks.set o .filled).set c.target
                (if (s.store.fillPoint c.target).isSome then .openBlock else .filled),
              op := some (.erase c.victim) } }) ∧
      (∀ p bs, (pagesOf c.victim).find? s.store.isLive = some p → s.store.fillPoint c.target = none →
        bs = s.store.blocks.set c.target .filled →
        (∀ f, ({ s.store with blocks := bs } : Store).firstBlock .free = some f →
          s.copyNext = { s with store := { s.store with blocks := bs.set f .spare, op := none, comp := none } }) ∧
        (({ s.store with blocks := bs } : Store).firstBlock .free = none →
          s.copyNext =
            ({ s with store := { s.store with
                blocks := bs, op := none, comp := none, degraded := true,
                fault := some (match s.store.fault with
                  | none => { kind := .degraded, block := some c.target, uptime := s.owner.uptime, more := false }
                  | some x => { x with more := true }) } }.raise .S .storeFault).raise .A .storeFault)))) ∧
  (∀ (s u : State) (b : Nat) (left : List (Nat × Byte)) (c : Instr),
    s.store.op = some (.erase b) ∧ c = .blockEraseDone left ∨ s.store.op = some (.recoveryErase b) ∧ c = .recoveryEraseDone left →
    (Mem.blockErased (Mem.eraseBlock s.store.mem b left) b = true →
      u = { s with store := { s.store with
              mem := Mem.eraseBlock s.store.mem b left, op := none, comp := none,
              used := s.store.used.filter fun p => p / 16 != b, blocks := s.store.blocks.set b .spare } } →
      exec c s = .next u.settle) ∧
    (∀ f, Mem.blockErased (Mem.eraseBlock s.store.mem b left) b = false →
      (({ s.store with blocks := s.store.blocks.set b .retired } : Store).firstBlock .free = some f) →
      u = (({ s with store := { s.store with
              mem := Mem.eraseBlock s.store.mem b left, op := none, comp := none,
              marksHeld := s.store.marksHeld ++ [b], blocks := (s.store.blocks.set b .retired).set f .spare,
              fault := some (match s.store.fault with
                | none => { kind := .eraseFailed, block := some b, uptime := s.owner.uptime, more := false }
                | some x => { x with more := true }) } }.raise .S .storeFault).raise .A .storeFault) →
      exec c s = .next u.settle) ∧
    (Mem.blockErased (Mem.eraseBlock s.store.mem b left) b = false →
      ({ s.store with blocks := s.store.blocks.set b .retired } : Store).firstBlock .free = none →
      u = (({ s with store := { s.store with
              mem := Mem.eraseBlock s.store.mem b left, op := none, comp := none,
              marksHeld := s.store.marksHeld ++ [b], blocks := s.store.blocks.set b .retired, degraded := true,
              fault := some (match s.store.fault with
                | none => { kind := .eraseFailed, block := some b, uptime := s.owner.uptime, more := true }
                | some x => { x with more := true }) } }.raise .S .storeFault).raise .A .storeFault) →
      exec c s = .next u.settle) ∧
    Mem.blockErased (Mem.eraseBlock s.store.mem b []) b = true) ∧
  (∀ (page : Bytes) (g : GoodPage), page.length = 256 → parsePage page = some g →
    parsePage (fit 256 0xFF#8 (recordOf page)) = some g)

/-! ### Owner verification (chapter 6) -/

/-- VERIFY OWNER: the refusals in their order, LOCKED_OUT, the hold-off after the decay, and the pre-charge of the attempt before
any comparison (R105, R106).
The commit of a pre-charge sets the slot's entry with the full hold-off of its count; a count at the hard limit ends the
attempt as a failed one, which ends an active owner grant, otherwise the STRETCH is claimed (R106, R107, R111).
A pre-charge that ends without a commit ends the attempt with that status alone: no comparison is made, and the entry and the owner
grant stay as they are (R106).
Where the bytes of THROTTLED, LOCKED_OUT and MISMATCH stand is read by the model (log 18).
That the work a request files starts within the command is the model's choice (log 11). -/
def Obligations.AttemptsAreChargedFirst : Prop :=
  (∀ (s : State) (n : Byte) (cand : Bytes), s.quiet = true → 1 ≤ cand.length → cand.length ≤ 64 →
    s.request .A 0x30#8 = some (n :: byte cand.length :: cand) → 1 ≤ n.toNat → n.toNat ≤ 254 →
    (s.granted .A (some .owner) = false → exec .verifyOwner s = .next (s.reply .A .notPermitted [])) ∧
    (s.granted .A (some .owner) = true →
      (s.store.keptRec n.toNat = none → exec .verifyOwner s = .next (s.reply .A .noSlot [])) ∧
      (∀ r, s.store.keptRec n.toNat = some r →
        (r.kind ≠ .verifier → exec .verifyOwner s = .next (s.reply .A .slotKind [])) ∧
        (∀ p e, goodVerifier r = true → r.domain = some .owner → p = verifierParams r.payload → e = s.holdOf n.toNat →
          (p.L ≠ 0 ∧ p.L ≤ e.count → exec .verifyOwner s = .next (s.reply .A .lockedOut [byte e.count])) ∧
          (∀ e', ¬ (p.L ≠ 0 ∧ p.L ≤ e.count) → e' = decayed p s.owner.uptime e →
            (s.owner.uptime < e'.holdUntil →
              exec .verifyOwner s =
                .next ((s.setHold e').reply .A .throttled (be 4 (e'.holdUntil - s.owner.uptime) ++ [byte e'.count]))) ∧
            (∀ st pg, e'.holdUntil ≤ s.owner.uptime → s.store.idle = true → s.store.gen n.toNat ≠ 0xFFFFFFFF#32 →
              s.store.place = some (st, pg) →
              exec .verifyOwner s =
                .next { (s.setHold e').setWork .A (.verifyPrecharge n.toNat cand (s.owner.entry n.toNat)) with
                  store := st.writes
                    { slot := n.toNat,
                      record := { r with payload := verifierPayload (verifierSalt r.payload) (verifierValue r.payload) p
                                                      (min 255 (e'.count + 1)) (some s.owner.uptime) },
                      expected := none, writer := .ownerUnit, chan := some .A, filer := .precharge, orphan := false } pg })))))) ∧
  (∀ (s u : State) (j : WriteJob) (g : Word) (p : Params) (c : Nat), j.filer = .precharge → j.orphan = false →
    p = verifierParams j.record.payload → c = verifierCount j.record.payload →
    u = s.setHold { slot := j.slot, count := c, holdUntil := min 4294967295 (s.owner.uptime + holdOff p c),
                    lastEvent := s.owner.uptime } →
    (p.L ≠ 0 ∧ p.L ≤ c →
      s.deliver j (.commit g) =
        (match s.owner.grant with
          | some _ => ({ u with owner := { u.owner with grant := none, idleDue := false } }.invalidate fun x => x.needsOwner).raise
              .A .ownerGrantEnded
          | none => u).reply .A .mismatch [0#8, 0#8, 0#8, 0#8, byte c, 1#8]) ∧
    (∀ slot cand before, ¬ (p.L ≠ 0 ∧ p.L ≤ c) → s.chA.work = .verifyPrecharge slot cand before →
      s.deliver j (.commit g) =
        (u.setWork .A (.verifyStretch slot j.record)).fileClaim .A (.stretch (slice j.record.payload 0 16) cand))) ∧
  (∀ (s : State) (j : WriteJob) (st : Status), j.filer = .precharge → j.orphan = false →
    s.deliver j (.fail st) = s.reply .A st [])

/-- The end of a STRETCH job. For VERIFY OWNER a match clears the hold-off, gives the grant and files the match write with count 0;
a mismatch ends an active grant and reports the hold-off that the pre-charge set and the entry's current count. For SET VERIFIER the
verifier's job is filed (R107, R108, R110, R111, R115).
The bytes of the MISMATCH reply are read by the model (log 18).
That the work a request files starts within the command is the model's choice (log 11). -/
def Obligations.StretchDecidesTheAttempt : Prop :=
  ∀ (s u : State) (who : Claimant) (salt cand : Bytes),
    s.engine.running = some { who := who, job := .stretch salt cand, dropped := false } → u = s.engineFreed →
    (∀ slot r p, s.chA.work = .verifyStretch slot r → p = verifierParams r.payload →
      (stretchOf salt cand = slice r.payload 16 32 → ∀ h v,
        h = u.setHold { u.holdOf slot with holdUntil := 0, lastEvent := s.owner.uptime } →
        v = { h with owner := { h.owner with grant := some { slot := slot, lastUse := s.owner.uptime }, idleDue := false } } →
        exec .stretchEnd s =
          .next ((v.setWork .A (.verifyMatch (verifierCount r.payload))).fileJob
            { slot := slot,
              record := { r with payload := verifierPayload (slice r.payload 0 16) (slice r.payload 16 32) p 0 none },
              expected := none, writer := .ownerUnit, chan := some .A, filer := .matchWrite, orphan := false }).settle) ∧
      (stretchOf salt cand ≠ slice r.payload 16 32 →
        exec .stretchEnd s =
          .next ((match s.owner.grant with
            | some _ => ({ u with owner := { u.owner with grant := none, idleDue := false } }.invalidate fun x => x.needsOwner).raise
                .A .ownerGrantEnded
            | none => u).reply .A .mismatch
              (be 4 (holdOff p (verifierCount r.payload)) ++ [byte (s.holdOf slot).count, 0#8])).settle)) ∧
    (∀ slot sl p g, s.chA.work = .verifierStretch slot sl p g →
      exec .stretchEnd s =
        .next ((u.setWork .A (.verifierStore p)).fileJob
          { slot := slot,
            record := { kind := .verifier, domain := some .owner, flags := 0#8, needsOwner := false, mask := 0#8,
                        composite := List.replicate 32 0#8, label := [],
                        payload := verifierPayload sl (stretchOf salt cand) p 0 none },
            expected := g, writer := .channelRequest, chan := some .A, filer := .setVerifier, orphan := false }).settle)

/-- SET VERIFIER: without the OWNER domain, or without the owner grant once some verifier exists, NOT_PERMITTED; a locked-out
verifier is WRONG_STATE; otherwise a salt is drawn, and after it the STRETCH of the new password is claimed, or RNG_FAULT ends the
request (R114, R115, R29).
That the work a request files starts within the command is the model's choice (log 11). -/
def Obligations.SetVerifierDrawsASalt : Prop :=
  (∀ (s : State) (body : Bytes) (a : SetVerifierArgs), s.quiet = true → s.request .A 0x32#8 = some body →
    parseSetVerifier body = some a → 1 ≤ a.slot → a.slot ≤ 254 →
    (s.granted .A (some .owner) = false ∨ s.owner.grant = none ∧ s.store.anyVerifier = true →
      exec .setVerifier s = .next (s.reply .A .notPermitted [])) ∧
    (s.granted .A (some .owner) = true → s.owner.grant.isSome = true ∨ s.store.anyVerifier = false →
      (∀ r p, s.store.keptRec a.slot = some r → goodVerifier r = true → p = verifierParams r.payload →
        p.L ≠ 0 ∧ p.L ≤ (s.holdOf a.slot).count → exec .setVerifier s = .next ((s.afterUse true).reply .A .wrongState [])) ∧
      ((∀ r p, s.store.keptRec a.slot = some r → p = verifierParams r.payload → r.kind = .verifier →
          goodVerifier r = true ∧ ¬ (p.L ≠ 0 ∧ p.L ≤ (s.holdOf a.slot).count)) → s.engine.free = true →
        exec .setVerifier s =
          .next { (s.afterUse true).setWork .A (.verifierRandom a.slot a.password a.params a.expected) with
            engine := s.engine.runs .A (.random 16) }))) ∧
  (∀ (s : State) (who : Claimant) (drawn pw : Bytes) (slot : Nat) (p : Params) (g : Option Word),
    s.engine.running = some { who := who, job := .random 16, dropped := false } → s.chA.work = .verifierRandom slot pw p g →
    (drawn.length = 16 →
      exec (.randomEnd true drawn) s =
        .next ((s.engineFreed.setWork .A (.verifierStretch slot drawn p g)).fileClaim .A (.stretch drawn pw)).settle) ∧
    exec (.randomEnd false drawn) s = .next (s.engineFreed.reply .A .rngFault []).settle)

/-- OWNER RESET: accepted in a boot phase with RCV_N asserted, when the owner epoch's advance begins; otherwise WRONG_STATE
(R117, R42). The level of RCV_N is what the command gives.
After the advance the walk takes the user slots with a VERIFIER, SECRET, LINK_KEY or SIGNING_KEY in OWNER, NETWORK or CLIENT in ascending
order and files a tombstone for each; a slot whose generation is at its top is left, another failure stops the walk, and the reply counts
both (R118).
That the work a request files starts within the command is the model's choice (log 11). The reply's bytes are read by the model (log
18). -/
def Obligations.OwnerResetNeedsTheButton : Prop :=
  (∀ (s : State) (rcv : Bool), s.quiet = true → s.request .S 0x34#8 = some [] →
      (s.boot.state = .released ∨ rcv = false →
        exec (.ownerReset rcv) s = .next ({ s with rcv := rcv }.reply .S .wrongState [])) ∧
      (s.boot.state ≠ .released → rcv = true → s.ota.current = none → s.ota.epoch < 64 → s.ota.cells.locked 3 = false →
        exec (.ownerReset rcv) s =
          .next { ({ s with rcv := true } : State).setWork .S .resetEpoch with
            ota := { s.ota with
              current := some { op := .advance .ownerEpoch (s.ota.epoch + 1) .ownerReset, pos := s.ota.epoch } } })) ∧
  (∀ (s : State) (st : Status), s.chS.work = .resetEpoch →
    s.advanceEnded .ownerEpoch .ownerReset st = s.resetWalkFrom 1 0 0 st) ∧
  (∀ (s : State) (start done left : Nat) (out : Status) (target : Nat → Prop),
    (∀ n, target n ↔ 1 ≤ n ∧ n ≤ 254 ∧ ∃ r, s.store.liveRec n = some r ∧
      (r.kind = .verifier ∨ r.kind = .secret ∨ r.kind = .linkKey ∨ r.kind = .signingKey) ∧
      (r.domain = some .owner ∨ r.domain = some .network ∨ r.domain = some .client)) →
    (∀ n, target n → start ≤ n → (∀ k, start ≤ k → k < n → ¬ target k) →
      s.resetWalkFrom start done left out =
        (s.setWork .S (.resetWalk n done left out)).fileJob
          { slot := n,
            record := { kind := .empty, domain := none, flags := 0#8, needsOwner := false, mask := 0#8,
                        composite := List.replicate 32 0#8, label := [], payload := [] },
            expected := none, writer := .ownerReset, chan := some .S, filer := .ownerReset, orphan := false }) ∧
    ((∀ n, target n → n < start) →
      s.resetWalkFrom start done left out =
        s.reply .S (if out = .otpFault then .otpFault else .ok) [byte done, byte left, byte s.ota.epoch, out.code])) ∧
  (∀ (s : State) (j : WriteJob) (n done left : Nat) (out st : Status) (g : Word), j.filer = .ownerReset →
    s.chS.work = .resetWalk n done left out →
    s.deliver j (.commit g) = s.resetWalkFrom (n + 1) (done + 1) left out ∧
    s.deliver j (.fail .wrongState) = s.resetWalkFrom (n + 1) done (left + 1) out ∧
    (st ≠ .wrongState →
      s.deliver j (.fail st) = s.reply .S st [byte done, byte left, byte s.ota.epoch, out.code]))

/-! ### Key contexts (chapter 7) -/

/-- OPEN KEY: the checks of R121 in their order; an unbound key is loaded at once into the lowest-numbered FREE entry, or, with
none FREE, over the unpinned entry with the smallest stamp, whose epoch rises; a bound key has its composite claimed (R121 to
R123).
That the work a request files starts within the command is the model's choice (log 11). -/
def Obligations.OpenKeyLoadsOrCompares : Prop :=
  ∀ (ch : Chan) (s : State) (n : Byte), s.quiet = true → s.request ch 0x40#8 = some [n] → 1 ≤ n.toNat → n.toNat ≤ 254 →
    (s.store.keptRec n.toNat = none → exec (.openKey ch) s = .next (s.reply ch .noSlot [])) ∧
    (∀ r, s.store.keptRec n.toNat = some r →
      (r.kind = .verifier ∨ r.kind = .trustAnchor → exec (.openKey ch) s = .next (s.reply ch .slotKind [])) ∧
      (openable r = true → s.granted ch r.domain = false → exec (.openKey ch) s = .next (s.reply ch .notPermitted [])) ∧
      (openable r = true → s.granted ch r.domain = true →
        (r.needsOwner = true → ch = .S ∨ s.owner.grant = none →
          exec (.openKey ch) s = .next (s.reply ch .notPermitted [])) ∧
        (∀ c' : Ctx, (r.needsOwner = true → ch = .A ∧ s.owner.grant.isSome = true) →
          c' = { slot := n.toNat, gen := s.store.gen n.toNat, owner := ch, kind := r.kind, domain := r.domain,
                 flags := r.flags, needsOwner := r.needsOwner, mask := r.mask, pinned := false,
                 stamp := s.ctx.counter + 1, material := r.payload } →
          (∀ i ep, r.mask = 0#8 → i < 12 → s.ctx.counter < 4294967295 →
            s.ctx.entries[i]? = some { epoch := ep, ctx := none } →
            (∀ k, k < i → ∃ e, s.ctx.entries[k]? = some e ∧ e.ctx ≠ none) →
            exec (.openKey ch) s =
              .next ({ s.afterUse r.needsOwner with ctx :=
                { entries := s.ctx.entries.set i { epoch := ep, ctx := some c' },
                  counter := s.ctx.counter + 1 } }.reply ch .ok
                ([byte i, ep] ++ be 4 (s.store.gen n.toNat).toNat ++ [r.kind.code, r.flags, flagByte r.needsOwner, 0#8, 0#8]))) ∧
          (∀ i ep c, r.mask = 0#8 → s.ctx.entries.length = 12 → s.ctx.counter < 4294967295 →
            (∀ e, e ∈ s.ctx.entries → e.ctx ≠ none) → s.ctx.entries[i]? = some { epoch := ep, ctx := some c } →
            c.pinned = false →
            (∀ k e x, k ≠ i → s.ctx.entries[k]? = some e → e.ctx = some x → x.pinned = false → c.stamp < x.stamp) →
            exec (.openKey ch) s =
              .next ({ s.afterUse r.needsOwner with ctx :=
                { entries := s.ctx.entries.set i { epoch := ep + 1#8, ctx := some c' },
                  counter := s.ctx.counter + 1 } }.reply ch .ok
                ([byte i, ep + 1#8] ++ be 4 (s.store.gen n.toNat).toNat
                  ++ [r.kind.code, r.flags, flagByte r.needsOwner, 0#8, 1#8]))) ∧
          (r.mask ≠ 0#8 → s.engine.free = true →
            exec (.openKey ch) s =
              .next { (s.afterUse r.needsOwner).setWork ch .openKey with
                engine := s.engine.runs (match ch with | .S => Claimant.S | .A => Claimant.A)
                  (.finishDigest (.composite n.toNat (s.store.gen n.toNat) r false) DigestState.fresh
                    (s.meas.selected r.mask)) }))))

/-- SIGN, DERIVE and RELEASE SECRET, granted at once: STALE_HANDLE, SLOT_KIND and NOT_PERMITTED in their order; otherwise the entry
takes a new stamp, the owner grant's last use is refreshed where the entry needs it, and SIGN and DERIVE run on a copy of the key
while RELEASE SECRET gives the secret without a job (R127 to R129).
That the work a request files starts within the command is the model's choice (log 11). -/
def Obligations.UsesOfAKeyAtTheirGrant : Prop :=
  ∀ (ch : Chan) (s : State) (n ep : Byte) (input : Bytes) (who : Claimant), s.quiet = true → s.engine.free = true →
    who = (match ch with | .S => .S | .A => .A) → n.toNat ≤ 11 → s.ctx.counter < 4294967295 →
    ∀ (c : Instr) (kind : Kind) (bit : Nat),
      (c = .sign ch ∧ kind = .signingKey ∧ bit = 0 ∧ input.length = 32 ∧ s.request ch 0x45#8 = some (n :: ep :: input)) ∨
      (c = .derive ch ∧ kind = .linkKey ∧ bit = 1 ∧ input.length ≤ 64 ∧
        s.request ch 0x46#8 = some (n :: ep :: byte input.length :: input)) ∨
      (c = .releaseSecret ch ∧ kind = .secret ∧ bit = 2 ∧ input = [] ∧ s.request ch 0x47#8 = some [n, ep]) →
      ((∀ x, s.ctx.entries[n.toNat]? = some { epoch := ep, ctx := some x } → x.owner ≠ ch) →
        exec c s = .next (s.reply ch .staleHandle [])) ∧
      (∀ x, s.ctx.entries[n.toNat]? = some { epoch := ep, ctx := some x } → x.owner = ch →
        (x.kind ≠ kind → exec c s = .next (s.reply ch .slotKind [])) ∧
        (x.kind = kind → x.flags.getLsbD bit = false → exec c s = .next (s.reply ch .notPermitted [])) ∧
        (∀ u, x.kind = kind → x.flags.getLsbD bit = true →
          u = { s.afterUse x.needsOwner with ctx :=
            { entries := s.ctx.entries.set n.toNat { epoch := ep, ctx := some { x with stamp := s.ctx.counter + 1 } },
              counter := s.ctx.counter + 1 } } →
          (c = .sign ch →
            exec c s = .next { u.setWork ch .use with engine := s.engine.runs who (.sign (x.material.take 32) input) }) ∧
          (c = .derive ch →
            exec c s = .next { u.setWork ch .use with engine := s.engine.runs who (.derive x.material input) }) ∧
          (c = .releaseSecret ch → exec c s = .next (u.reply ch .ok (byte x.material.length :: x.material)))))

/-! ### Measurement and attestation (chapter 8) -/

/-- EXTEND at its take and grant: a lane of the other channel is NOT_PERMITTED, a closed boot lane WRONG_STATE, a full log LOG_FULL,
and otherwise the job runs on the lane's present value (R139 to R141). QUOTE outside SEALED is WRONG_STATE; in SEALED the statement
is taken at the grant, in the order of table 11.4.3 (R147, R148, R193).
That the work a request files starts within the command is the model's choice (log 11). -/
def Obligations.ExtendAndQuoteAtTheirGrant : Prop :=
  ∀ (ch : Chan) (s : State) (who : Claimant), s.quiet = true → s.engine.free = true → who = (match ch with | .S => .S | .A => .A) →
    (∀ (lane : Byte) (digest label : Bytes), digest.length = 32 → label.length ≤ 16 → lane.toNat ≤ 7 →
      s.request ch 0x50#8 = some ([lane] ++ digest ++ [byte label.length] ++ label) →
      (ch = .S ∧ 4 ≤ lane.toNat ∨ ch = .A ∧ lane.toNat < 4 → exec (.extend ch) s = .next (s.reply ch .notPermitted [])) ∧
      (ch = .S → lane.toNat < 4 → s.meas.bootOpen = false → exec (.extend ch) s = .next (s.reply ch .wrongState [])) ∧
      (ch = .S ∧ lane.toNat < 4 ∧ s.meas.bootOpen = true ∧ 30 ≤ s.meas.log.length ∨
          ch = .A ∧ 4 ≤ lane.toNat ∧ 48 ≤ s.meas.log.length →
        exec (.extend ch) s = .next (s.reply ch .logFull [])) ∧
      (ch = .S ∧ lane.toNat < 4 ∧ s.meas.bootOpen = true ∧ s.meas.log.length < 30 ∨
          ch = .A ∧ 4 ≤ lane.toNat ∧ s.meas.log.length < 48 →
        exec (.extend ch) s =
          .next { s.setWork ch .extend with
            engine := s.engine.runs who (.extend lane.toNat (s.meas.lane lane.toNat) digest label
              (match ch with | .S => .supervisor | .A => .application)) })) ∧
    (∀ (nonce : Bytes) (mask : Byte), 8 ≤ nonce.length → nonce.length ≤ 32 →
      s.request ch 0x53#8 = some ([byte nonce.length] ++ nonce ++ [mask]) →
      (s.ota.lifecycle ≠ .sealed → exec (.quote ch) s = .next (s.reply ch .wrongState [])) ∧
      (∀ copy stmt, s.ota.lifecycle = .sealed → s.ota.identity = some copy →
        stmt = [1#8] ++ slice copy 10 16
          ++ [3#8, byte s.ota.epoch, byte s.ota.loader, byte s.ota.system, byte s.ota.radio, s.boot.mode.code,
              bankCode s.boot.booted, byte s.meas.log.length, mask]
          ++ (List.range 8).flatMap (fun k => if mask.getLsbD k then s.meas.lane k else [])
          ++ [byte nonce.length] ++ nonce ++ be 4 s.owner.uptime →
        exec (.quote ch) s =
          .next { s.setWork ch .quoteDigest with
            engine := s.engine.runs who (.finishDigest (.quote stmt) DigestState.fresh stmt) }))

/-- The end of an EXTEND job: the lane takes the digest of its value and the input digest, the entry is appended, and every context
bound to the lane is freed, all at once; while a release waits for the job the boot lanes then close. Then a channel's request is
answered with the entry's index and the new value, the image checker goes on with its pass, and the recovery marker makes the release
ready. A job whose requester is gone changes nothing (R25, R136, R138, R141 to R143).
That the work a request files starts within the command is the model's choice (log 11). How the release and the close share the steps
is the model's reading (log 16). -/
def Obligations.ExtensionIsCompletedAtOnce : Prop :=
  ∀ (s u v : State) (who : Claimant) (lane : Nat) (value digest label : Bytes) (src : Source) (gone : Bool),
    s.engine.running = some { who := who, job := .extend lane value digest label src, dropped := gone } →
    u = ({ s.engineFreed with meas := { s.meas with
            lanes := s.meas.lanes.set lane (digestOf (value ++ digest)),
            log := s.meas.log ++ [{ lane := lane, source := src, label := label, digest := digest }] } } : State).invalidate
          (fun c => c.mask.getLsbD lane) →
    ((∀ m b, s.boot.stage ≠ .releaseClosing m b) → v = u) →
    (∀ m b, s.boot.stage = .releaseClosing m b → v = { u with meas := { u.meas with bootOpen := false } }) →
    (gone = true → exec .extendJobEnd s = .next s.engineFreed.settle) ∧
    (gone = false →
      (src = .supervisor ∧ who = .S →
        exec .extendJobEnd s =
          .next (v.reply .S .ok (byte s.meas.log.length :: digestOf (value ++ digest))).settle) ∧
      (src = .application ∧ who = .A →
        exec .extendJobEnd s =
          .next (v.reply .A .ok (byte s.meas.log.length :: digestOf (value ++ digest))).settle) ∧
      (src = .part → exec .extendJobEnd s = .next v.partExtended.settle) ∧
      (src = .recovery →
        exec .extendJobEnd s =
          .next ({ v.setWork .S .recoveryRelease with
            boot := { s.boot with stage := .releaseReady .recovery none } } : State).settle))

/-! ### The ends of the other engine jobs (chapter 2) -/

/-- The ends of SIGN, DERIVE and KEYGEN jobs: the results reach the requests that claimed them; a failed health test is RNG_FAULT
and gives no key; the attestation key is given with OK, or with OTP_FAULT and part 2 when the marker's programming failed; a job
whose requester is gone frees the engine and does nothing else (R27 to R29, R32, R34, R47, R85, R129,
R149).
The signature that SIGN gives is 64 bytes, r and s each in 1..n-1 for every private scalar and digest (R26).
That the work a request files starts within the command is the model's choice (log 11). The signature's k is a free value (log
9). The lifecycle byte of GENERATE DEVICE KEYS' reply and the presence byte before its key are read by the model (log 19, log 18). -/
def Obligations.KeyJobsHandBackTheirResults : Prop :=
  (∀ (s : State) (ch : Chan) (who : Claimant) (gone : Bool), who = (match ch with | .S => .S | .A => .A) →
      (∀ scalar digest, s.engine.running = some { who := who, job := .sign scalar digest, dropped := gone } →
        (gone = true → exec .signJobEnd s = .next s.engineFreed.settle) ∧
        (gone = false →
          ((s.chan ch).work = .use →
            exec .signJobEnd s = .next (s.engineFreed.reply ch .ok (signatureOf scalar digest)).settle) ∧
          (∀ stmt, (s.chan ch).work = .quoteSign stmt →
            exec .signJobEnd s = .next (s.engineFreed.reply ch .ok (stmt ++ signatureOf scalar digest)).settle))) ∧
      (∀ key info, s.engine.running = some { who := who, job := .derive key info, dropped := gone } →
        (gone = true → exec .deriveJobEnd s = .next s.engineFreed.settle) ∧
        (gone = false →
          exec .deriveJobEnd s =
            .next (s.engineFreed.reply ch .ok (digestOf (key ++ [byte info.length] ++ info))).settle)) ∧
      (∀ slot r g draw draws, (s.chan ch).work = .generateKeygen slot r g → gone = false → draw.length = 32 →
        (s.engine.running = some { who := who, job := .keygen .linkKey, dropped := gone } →
          exec (.keygenEnd true (draw :: draws)) s =
            .next ((s.engineFreed.setWork ch (.generateStore none)).fileJob
              { slot := slot, record := { r with payload := draw }, expected := g, writer := .channelRequest, chan := some ch,
                filer := .generateKey, orphan := false }).settle) ∧
        (s.engine.running = some { who := who, job := .keygen .signingKey, dropped := gone } →
          1 ≤ beNat draw ∧ beNat draw < order256 →
          exec (.keygenEnd true (draw :: draws)) s =
            .next ((s.engineFreed.setWork ch (.generateStore (some (publicKey draw)))).fileJob
              { slot := slot, record := { r with payload := draw ++ publicKey draw }, expected := g, writer := .channelRequest,
                chan := some ch, filer := .generateKey, orphan := false }).settle) ∧
        (s.engine.running = some { who := who, job := .keygen .linkKey, dropped := gone } ∨
            s.engine.running = some { who := who, job := .keygen .signingKey, dropped := gone } →
          exec (.keygenEnd false (draw :: draws)) s = .next (s.engineFreed.reply ch .rngFault []).settle)) ∧
      (∀ seed draws, seed.length = 32 → s.engine.running = some { who := .S, job := .keygen .deviceSeed, dropped := false } →
        exec (.keygenEnd true (seed :: draws)) s = .next ((s.engineFreed.setWork .S .keysProgram).fileOta (.keys seed)).settle ∧
        exec (.keygenEnd false (seed :: draws)) s = .next (s.engineFreed.reply .S .rngFault []).settle) ∧
      (∀ seed draws healthy, s.engine.running = some { who := .S, job := .keygen (.attestation seed), dropped := false } →
        s.chS.work = .keysAttest .ok →
        exec (.keygenEnd healthy draws) s =
          .next ({ s with engine := { s.engine with running := none, attest := some (attestKeyOf seed) } }.reply .S .ok
            ((attestKeyOf seed).pub ++ [s.ota.lifecycle.code])).settle) ∧
      (∀ seed draws healthy, s.engine.running = some { who := .S, job := .keygen (.attestation seed), dropped := false } →
        s.chS.work = .keysAttest .otpFault →
        exec (.keygenEnd healthy draws) s =
          .next ({ s with engine := { s.engine with running := none, attest := some (attestKeyOf seed) } }.reply .S .otpFault
            ([2#8, 1#8] ++ (attestKeyOf seed).pub ++ [s.ota.lifecycle.code])).settle)) ∧
  (∀ scalar digest : Bytes, 1 ≤ beNat scalar → beNat scalar < order256 →
    (signatureOf scalar digest).length = 64 ∧
    1 ≤ beNat ((signatureOf scalar digest).take 32) ∧ beNat ((signatureOf scalar digest).take 32) < order256 ∧
    1 ≤ beNat ((signatureOf scalar digest).drop 32) ∧ beNat ((signatureOf scalar digest).drop 32) < order256)

/-- The ends of the jobs of a bank check: the signer's record is read once the manifest digest is back, the anchor must be vouched
for by a present root, a bad signature and an epoch below its floor end the check, each hashed chunk moves the descriptor, a segment
whose digest differs ends the check, and one whose digest agrees leads to the next segment, or after the last one to the extensions of
a boot check and to the commit change of an admission (R92, R164, R165, R177).
The pass of a bank: the extensions of the manifest and of each segment in their order, the report of the pass, the record it calls for
when that differs from the RAM copy, the three floor advances of a factory pass one after another, and the release (R142, R160, R166).
A HASH_CHUNK, FINISH_DIGEST, VERIFY_SIGNATURE, STRETCH, RANDOM or KEYGEN job whose claimant is gone frees the engine and does nothing
else (R34, R181, R183).
That the work a request files starts within the command is the model's choice (log 11), and that the segment index
stays at the last segment once every segment is confirmed (log 47). -/
def Obligations.CheckerJobsAdvanceTheCheck : Prop :=
  (∀ (s u : State), u = s.engineFreed →
      (∀ st final d, s.engine.running = some { who := .F, job := .finishDigest .manifest st final, dropped := false } →
        d = (st.feed final).finish →
        (∀ r, s.store.keptRec (byteAt s.checker.manifest 8).toNat = some r →
          (r.kind = .trustAnchor ∧ r.domain = some .update ∧ r.payload.length = 64 ∧ r.flags.getLsbD 3 = true →
            exec .finishDigestEnd s =
              .next (({ u with checker := { s.checker with manDigest := some d, anchor := some r.payload } } : State).fileClaim .F
                .digestAnchor).settle) ∧
          (r.kind ≠ .trustAnchor ∨ r.domain ≠ some .update ∨ r.flags.getLsbD 3 = false →
            exec .finishDigestEnd s =
              .next (({ u with checker := { s.checker with manDigest := some d } } : State).checkFailed .signer).settle)) ∧
        (s.store.keptRec (byteAt s.checker.manifest 8).toNat = none →
          exec .finishDigestEnd s =
            .next (({ u with checker := { s.checker with manDigest := some d } } : State).checkFailed .signer).settle)) ∧
      (∀ st final d, s.engine.running = some { who := .F, job := .finishDigest .anchor st final, dropped := false } →
        d = (st.feed final).finish →
        ((∃ r, r ∈ s.ota.roots ∧ r.present = true ∧ r.digest = d) →
          exec .finishDigestEnd s = .next (u.fileClaim .F .verifySig).settle) ∧
        ((∀ r, r ∈ s.ota.roots → r.present = true → r.digest ≠ d) →
          exec .finishDigestEnd s = .next (u.checkFailed .signer).settle)) ∧
      (∀ key d sig, s.engine.running = some { who := .F, job := .verifySig key d sig, dropped := false } →
        (verifySignature key d sig = false → exec .verifySignatureEnd s = .next (u.checkFailed .signature).settle) ∧
        (verifySignature key d sig = true → s.ota.belowFloor (manifestEpochs s.checker.manifest) = true →
          exec .verifySignatureEnd s = .next (u.checkFailed .rollback).settle) ∧
        (verifySignature key d sig = true → s.ota.belowFloor (manifestEpochs s.checker.manifest) = false →
          ∀ g, g = manifestSegment s.checker.manifest 0 →
            exec .verifySignatureEnd s =
              .next ({ u with checker := { s.checker with
                state := .hashing, adm := if s.checker.work = .admission then .hashing else s.checker.adm, segIndex := 0,
                descAddr := s.boot.phaseCopy.base s.checker.bank + g.offset, descRem := g.length,
                digest := some DigestState.fresh,
                flash := some { read := .chunk (min 4096 g.length), dropped := false } } } : State).settle)) ∧
      (∀ st bytes, s.engine.running = some { who := .F, job := .hashChunk st bytes, dropped := false } →
        (s.checker.descRem ≤ bytes.length →
          exec .hashChunkEnd s =
            .next (({ u with checker := { s.checker with digest := some (st.feed bytes), descRem := 0,
                                                         descAddr := s.checker.descAddr + bytes.length } } : State).fileClaim .F
              .digestSegment).settle) ∧
        (∀ rem, bytes.length < s.checker.descRem → rem = s.checker.descRem - bytes.length →
          exec .hashChunkEnd s =
            .next ({ u with checker := { s.checker with
              digest := some (st.feed bytes), descRem := rem, descAddr := s.checker.descAddr + bytes.length,
              flash := some { read := .chunk (min 4096 rem), dropped := false } } } : State).settle)) ∧
      (∀ st final, s.engine.running = some { who := .F, job := .finishDigest .segment st final, dropped := false } →
        (st.feed final).finish ≠ (manifestSegment s.checker.manifest s.checker.segIndex).digest →
        exec .finishDigestEnd s = .next (u.checkFailed .digest).settle)) ∧
  (∀ (s u : State) (st : DigestState) (final : Bytes) (m : Bytes), u = s.engineFreed → m = s.checker.manifest →
    s.engine.running = some { who := .F, job := .finishDigest .segment st final, dropped := false } →
    (st.feed final).finish = (manifestSegment m s.checker.segIndex).digest →
    (∀ i g, i = s.checker.segIndex + 1 → i < manifestCount m → g = manifestSegment m i →
      exec .finishDigestEnd s =
        .next ({ u with checker := { s.checker with
          segIndex := i, descAddr := s.boot.phaseCopy.base s.checker.bank + g.offset, descRem := g.length,
          digest := some DigestState.fresh,
          flash := some { read := .chunk (min 4096 g.length), dropped := false } } } : State).settle) ∧
    (∀ d, manifestCount m ≤ s.checker.segIndex + 1 → s.checker.manDigest = some d →
      (s.checker.work = .boot → s.checker.extended = 0 →
        exec .finishDigestEnd s =
          .next (({ u with checker := { s.checker with state := .recording } } : State).fileClaim .F
            (.extendPart 0 d (ascii "MANIFEST"))).settle) ∧
      (s.checker.work = .admission →
        exec .finishDigestEnd s =
          .next (({ u with checker := { s.checker with adm := .committing } } : State).ask
            (.commitAdm s.checker.bank (manifestEpochs m) d)).settle))) ∧
  (∀ (s u : State) (m : Bytes), m = s.checker.manifest →
    u = { s with checker := { s.checker with extended := s.checker.extended + 1 } } →
    (∀ g, s.checker.extended < manifestCount m → g = manifestSegment m s.checker.extended →
      s.partExtended =
        u.fileClaim .F (.extendPart g.lane g.digest (match g.kind with | some k => SegKind.name k | none => []))) ∧
    (∀ d, manifestCount m ≤ s.checker.extended → s.checker.manDigest = some d →
      s.partExtended = u.bootPassed s.checker.bank (manifestEpochs m) d)) ∧
  (∀ (s u : State) (b : Bank) (factory : Bool) (e : Epochs) (d : Bytes), factory = (s.boot.stage == .checking b true) →
    u = { s with checker := s.checker.discard, boot := { s.boot with bootedPass := some { epochs := e, digest := d } } } →
    (s.boot.record.apply (.passed b factory e d) = s.boot.record → s.bootPassed b e d = u.afterRecord b factory) ∧
    (s.boot.record.apply (.passed b factory e d) ≠ s.boot.record →
      s.bootPassed b e d =
        { u with boot := { u.boot with
          stage := .passWait b factory, changes := s.boot.changes ++ [{ change := .passed b factory e d, live := true }] } })) ∧
  (∀ (s : State) (b : Bank) (factory live : Bool) (e : Epochs) (d : Bytes) (st : Status),
    s.changeEnded { change := .passed b factory e d, live := live } st =
      ({ s with boot := { s.boot with passStatus := some st } } : State).afterRecord b factory) ∧
  (∀ (s : State) (b : Bank) (p : PassInfo), s.boot.bootedPass = some p →
    s.afterRecord b false = { s with boot := { s.boot with stage := .releaseReady .normal (some b) } } ∧
    s.afterRecord b true =
      ({ s with boot := { s.boot with stage := .floors b } } : State).fileOta (.advance .loader p.epochs.loader .factory)) ∧
  (∀ (s u : State) (b : Bank) (p : PassInfo) (k : Counter) (st : Status), s.boot.stage = .floors b → s.boot.bootedPass = some p →
    u = { s with boot := { s.boot with factory := s.boot.factory ++ [{ status := st, value := s.ota.value k }] } } →
    (s.boot.factory.length = 0 →
      s.advanceEnded k .factory st = u.fileOta (.advance .system p.epochs.system .factory)) ∧
    (s.boot.factory.length = 1 → s.advanceEnded k .factory st = u.fileOta (.advance .radio p.epochs.radio .factory)) ∧
    (s.boot.factory.length = 2 →
      s.advanceEnded k .factory st = { u with boot := { u.boot with stage := .releaseReady .normal (some b) } })) ∧
  (∀ (s : State) (r : Running) (c : Instr), s.engine.running = some r → r.dropped = true →
    (∃ st bytes, r.job = .hashChunk st bytes ∧ c = .hashChunkEnd) ∨
      (∃ p st final, r.job = .finishDigest p st final ∧ c = .finishDigestEnd) ∨
      (∃ key d sig, r.job = .verifySig key d sig ∧ c = .verifySignatureEnd) ∨
      (∃ salt cand, r.job = .stretch salt cand ∧ c = .stretchEnd) ∨
      (∃ n ok drawn, r.job = .random n ∧ c = .randomEnd ok drawn) ∨
      (∃ k ok draws, r.job = .keygen k ∧ c = .keygenEnd ok draws ∧
        (k ≠ .signingKey ∨ ok = false ∨
          ∃ d rest, draws = d :: rest ∧ d.length = 32 ∧ 1 ≤ beNat d ∧ beNat d < order256)) →
    exec c s = .next s.engineFreed.settle)

/-- The ends of the digests of INSTALL ROOT, OPEN KEY and QUOTE: a known root is BAD_ARGUMENT; otherwise the lowest-numbered empty entry
whose digest bytes can take the digest is chosen and its operation filed, and with no such entry the reply is NO_ROOM; a composite
that differs is POLICY, and the load checks follow in their order (R48, R122).
The end of the digest of a QUOTE's statement: SIGN is claimed under the same claimant, and at its grant it runs with the attestation
scalar over that digest (R149, R32). A digest whose requester is gone is discarded (R34).
That the work a request files starts within the command is the model's choice (log 11). -/
def Obligations.DigestsAnswerTheirRequests : Prop :=
  ∀ (s u : State) (st : DigestState) (final d : Bytes), u = s.engineFreed → d = (st.feed final).finish →
    (∀ who, s.engine.running = some { who := who, job := .finishDigest .root st final, dropped := false } →
      ((∃ r, r ∈ s.ota.roots ∧ r.present = true ∧ r.digest = d) →
        exec .finishDigestEnd s = .next (u.reply .S .badArgument []).settle) ∧
      (∀ can : Nat → Prop, (∀ r, r ∈ s.ota.roots → r.present = true → r.digest ≠ d) →
        (∀ i, can i ↔ i < 4 ∧ ∃ r, s.ota.roots[i]? = some r ∧ r.present = false ∧ List.zipWith (· ||| ·) r.digest d = r.digest) →
        ((∀ i, ¬ can i) → exec .finishDigestEnd s = .next (u.reply .S .noRoom []).settle) ∧
        (∀ e, can e → (∀ i, i < e → ¬ can i) →
          exec .finishDigestEnd s = .next ((u.setWork .S (.rootProgram e d)).fileOta (.root e d)).settle)) ∧
      (∀ old : Bytes, old.length = 32 → d.length = 32 →
        (List.zipWith (· ||| ·) old d = old ↔
          ∀ k i, k < 32 → i < 8 → (byteAt old k).getLsbD i = false → (byteAt d k).getLsbD i = false))) ∧
    (∀ ch who slot gen r cleared, who = (match ch with | .S => .S | .A => .A) →
      s.engine.running = some { who := who, job := .finishDigest (.composite slot gen r cleared) st final, dropped := false } →
      (d ≠ r.composite → exec .finishDigestEnd s = .next (u.reply ch .policy []).settle) ∧
      (d = r.composite → s.store.gen slot ≠ gen →
        exec .finishDigestEnd s = .next (u.reply ch .generationMismatch (be 4 (s.store.gen slot).toNat)).settle) ∧
      (d = r.composite → s.store.gen slot = gen →
        (s.granted ch r.domain = false ∨ r.needsOwner = true ∧ s.owner.grant = none →
          exec .finishDigestEnd s = .next (u.reply ch .notPermitted []).settle) ∧
        (s.granted ch r.domain = true → (r.needsOwner = true → s.owner.grant.isSome = true) →
          (cleared = true → exec .finishDigestEnd s = .next ((u.afterUse r.needsOwner).reply ch .policy []).settle) ∧
          (cleared = false →
            exec .finishDigestEnd s = .next ((u.afterUse r.needsOwner).loadContext ch slot gen r).settle)))) ∧
    (∀ ch who stmt, who = (match ch with | .S => .S | .A => .A) →
      s.engine.running = some { who := who, job := .finishDigest (.quote stmt) st final, dropped := false } →
      exec .finishDigestEnd s = .next ((u.setWork ch (.quoteSign stmt)).fileClaim who (.signQuote d)).settle ∧
      (∀ k, u.quiet = true → u.engine.free = true → s.engine.attest = some k →
        exec .finishDigestEnd s =
          .next { u.setWork ch (.quoteSign stmt) with engine := u.engine.runs who (.sign k.scalar d) })) ∧
    (∀ (v : State) ch k, v.engine.attest = some k → v.gather ch (.signQuote d) = (some (.sign k.scalar d), v)) ∧
    (∀ who p, s.engine.running = some { who := who, job := .finishDigest p st final, dropped := true } →
      exec .finishDigestEnd s = .next u.settle)

/-! ### Boot controller and image checker (chapters 9 and 10) -/

/-- The ends of the flash reads of a check: no flash is FLASH_FAULT, an overlap ends the check of bank 1, the manifest must pass its
structure tests, and a chunk is claimed for hashing; bytes of a read that was aborted are dropped (R162, R163, R165, R181).
An ABORT ADMISSION that waits for the read is finished at its end: FOWN is deasserted, ADMISSION_DONE raised, then OK placed with the
state before the abort (R181).
That the work a request files starts within the command is the model's choice (log 11). -/
def Obligations.FlashReadsAdvanceTheCheck : Prop :=
  ∀ (s u : State) (b0 b1 b2 : Byte) (bytes : Bytes), u = { s with checker := { s.checker with flash := none } } →
    (s.checker.flash = some { read := .id, dropped := false } →
      ((b0 = 0#8 ∧ b1 = 0#8 ∧ b2 = 0#8) ∨ (b0 = 0xFF#8 ∧ b1 = 0xFF#8 ∧ b2 = 0xFF#8) →
        exec (.flashIdReadDone b0 b1 b2) s = .next (u.checkFailed .flashFault).settle) ∧
      (¬ ((b0 = 0#8 ∧ b1 = 0#8 ∧ b2 = 0#8) ∨ (b0 = 0xFF#8 ∧ b1 = 0xFF#8 ∧ b2 = 0xFF#8)) →
        (s.checker.bank = .b1 ∧ s.boot.phaseCopy.base0 < s.boot.phaseCopy.base1 + s.boot.phaseCopy.size ∧
            s.boot.phaseCopy.base1 < s.boot.phaseCopy.base0 + s.boot.phaseCopy.size →
          exec (.flashIdReadDone b0 b1 b2) s = .next (u.checkFailed .badManifest).settle) ∧
        (s.checker.bank = .b0 ∨ s.boot.phaseCopy.base1 + s.boot.phaseCopy.size ≤ s.boot.phaseCopy.base0 ∨
            s.boot.phaseCopy.base0 + s.boot.phaseCopy.size ≤ s.boot.phaseCopy.base1 →
          exec (.flashIdReadDone b0 b1 b2) s =
            .next ({ s with checker := { s.checker with flash := some { read := .manifest, dropped := false } } } : State).settle))) ∧
    (s.checker.flash = some { read := .manifest, dropped := false } → ∀ (count : Nat) (good : Bool),
      count = (byteAt bytes 9).toNat → bytes.length = 74 + 42 * count →
      (good = true ↔ bytes.take 4 = ascii "ZMHK" ∧ byteAt bytes 4 = 1#8 ∧ 1 ≤ count ∧ count ≤ 16 ∧
        ∀ i g, i < count → g = manifestSegment bytes i →
          g.kind ≠ none ∧ g.lane ≤ 3 ∧ 1 ≤ g.length ∧ g.length ≤ 8388608 ∧ g.offset + g.length ≤ s.boot.phaseCopy.size ∧
            s.boot.phaseCopy.base s.checker.bank + g.offset + g.length ≤ 0x1000000) →
      (good = false → exec (.manifestReadDone bytes) s = .next (u.checkFailed .badManifest).settle) ∧
      (good = true →
        exec (.manifestReadDone bytes) s =
          .next (({ s with checker := { s.checker with
            flash := none, state := .checking, manifest := bytes,
            adm := if s.checker.work = .admission then .checking else s.checker.adm } } : State).fileClaim .F
              .digestManifest).settle)) ∧
    (s.checker.flash = some { read := .chunk bytes.length, dropped := false } →
      exec (.chunkReadDone bytes) s =
        .next (({ s with checker := { s.checker with flash := none, chunk := bytes } } : State).fileClaim .F .hashChunk).settle) ∧
    (∀ n r c, (r, c) ∈ [(FlashRead.id, Instr.flashIdReadDone b0 b1 b2), (.manifest, .manifestReadDone bytes),
        (.chunk n, .chunkReadDone bytes)] →
      s.checker.flash = some { read := r, dropped := true } →
      ((∀ prev, s.chA.work ≠ .abortWait prev) → exec c s = .next u.settle) ∧
      (∀ prev, s.chA.work = .abortWait prev →
        exec c s =
          .next ((({ s with checker := { s.checker with flash := none, fown := false } } : State).raise .A .admissionDone).reply .A
            .ok [prev.code]).settle))

/-- A failed check. In a boot phase the bank's reason is recorded, a bank that was TRIAL or ADMITTED is to be REJECTED in the
record, and in factory mode bank 1 follows bank 0 (R158, R159). An admission ends FAILED with its reason: FOWN is deasserted, the
reason is kept and ADMISSION_DONE is raised (R177, R179).
The record of each boot record change, built from the RAM copy (R153, R156 to R160, R171, R176, R178, R187, R189). -/
def Obligations.FailedChecksAndRecordChanges : Prop :=
  (∀ (s : State) (r : CheckReason),
    (s.checker.work = .boot → ∀ (b : Bank) (u : State), b = s.checker.bank →
      u = { s with checker := s.checker.discard,
                   boot := (match b with
                     | .b0 => { s.boot with reason0 := .check r }
                     | .b1 => { s.boot with reason1 := .check r }) } →
      ((s.boot.record.bank b).state = .trial ∨ (s.boot.record.bank b).state = .admitted →
        s.checkFailed r =
          { u with boot := { u.boot with stage := .rejectWait b,
                                         changes := s.boot.changes ++ [{ change := .reject b, live := true }] } }) ∧
      ((s.boot.record.bank b).state = .unknown → s.boot.stage = .checking b true → b = .b0 →
        s.checkFailed r =
          { u with boot := { u.boot with stage := .checking .b1 true, tried1 := true },
                   checker := { s.checker.discard with
                     work := .boot, state := .reading, bank := .b1, startWait := true } }) ∧
      ((s.boot.record.bank b).state = .unknown → s.boot.stage = .checking b true → b = .b1 →
        s.checkFailed r = ({ u with boot := { u.boot with stage := .failed, state := .bootFailed } } : State).raise .S
          .bootFailed)) ∧
    (s.checker.work = .admission →
      s.checkFailed r =
        ({ s with checker := { s.checker.discard with
            fown := false, adm := .failed, admReason := some (.check r), result := none, claimed := false } } : State).raise .A
          .admissionDone)) ∧
  (∀ (r : BootRec) (b : Bank) (e : Epochs) (d : Bytes),
    (∀ x y, x ≠ y → (r.apply (.trialInc x)).bank x = { r.bank x with trials := (r.bank x).trials + 1 } ∧
      (r.apply (.trialInc x)).bank y = r.bank y ∧ (r.apply (.trialInc x)).preferred = r.preferred) ∧
    r.apply (.select b) = { r with preferred := b } ∧
    ((r.apply (.claiming b)).bank b =
        { state := .unknown, trials := 0, epochs := { loader := 0, system := 0, radio := 0 }, digest := List.replicate 32 0#8 } ∧
      (r.apply (.claiming b)).bank b.other = r.bank b.other ∧ (r.apply (.claiming b)).preferred = r.preferred) ∧
    ((r.apply (.commitAdm b e d)).bank b = { state := .trial, trials := 0, epochs := e, digest := d } ∧
      (r.apply (.commitAdm b e d)).bank b.other = r.bank b.other ∧ (r.apply (.commitAdm b e d)).preferred = b) ∧
    ((r.apply (.confirmBank b e d)).bank b = { state := .admitted, trials := 0, epochs := e, digest := d } ∧
      (r.apply (.confirmBank b e d)).bank b.other = r.bank b.other ∧
      (r.apply (.confirmBank b e d)).preferred = r.preferred) ∧
    (∀ c, c = .reject b ∨ c = .trialsOut b →
      (r.apply c).bank b = { r.bank b with state := .rejected, trials := 0 } ∧ (r.apply c).bank b.other = r.bank b.other ∧
      (r.apply c).preferred =
        (if r.preferred = b ∧ (r.bank b.other).state = .admitted then b.other else r.preferred)) ∧
    (∀ f : Bool, (r.apply (.passed b f e d)).bank b =
        (if f then { state := .admitted, trials := 0, epochs := e, digest := d } else { r.bank b with epochs := e, digest := d }) ∧
      (r.apply (.passed b f e d)).bank b.other = r.bank b.other ∧ (r.apply (.passed b f e d)).preferred = b) ∧
    ((r.apply (.confirmReject b)).bank b = { r.bank b with state := .rejected, trials := 0 } ∧
      (r.apply (.confirmReject b)).bank b.other = r.bank b.other ∧
      (r.apply (.confirmReject b)).preferred = (if r.preferred = b then b.other else r.preferred)))

/-- RELEASE RECOVERY: accepted in WAITING and BOOT_FAILED outside lifecycle FAILED, when the marker's EXTEND job is claimed
(R143, R168). RESTART PLATFORM in a boot phase is WRONG_STATE; otherwise channel A is closed, HOLD_N asserted, the owner grant ended,
lanes and log cleared, FOWN asserted and a new boot phase begun, and a request on channel S is answered OK, VERIFYING (R170).
What the restart ends: the jobs of channel A that the store has not taken leave the FIFO and the waiters, and a taken one loses its
request (R79); channel A's claim is withdrawn, and a running job of channel A or of the image checker ends without effect (R34);
an admission in progress is FAILED(ABORTED) and a held result is cleared (R184); channel A's boot record changes that wait or are
untaken are discarded, the outstanding one among them, and a confirmation goes on without a reply unless its first step is among them
(R153, R190); the hold-off entry of an attempt whose pre-charge is untaken is as before the request, unless it is gone (R109); a
write to channel A in progress is ignored from then on, and a read of its reply gives 0xFF (R13). Of the context table, channel A's
entries, those bound to a lane and those that need an owner grant that ends go FREE with their epoch raised; every other entry
stays as it is (R130, R132, R134).
That the work a request files starts within the command is the model's choice (log 11). That the reply of a restart says
VERIFYING is the model's reading (log 15). That the decay of an attempt is undone with it is the model's reading (log 46). -/
def Obligations.RecoveryAndRestart : Prop :=
  ∀ s : State, s.quiet = true →
    (s.request .S 0x61#8 = some [] →
      (s.boot.state = .verifying ∨ s.boot.state = .released ∨ s.ota.lifecycle = .failed →
        exec .releaseRecovery s = .next (s.reply .S .wrongState [])) ∧
      (s.boot.state = .waiting ∨ s.boot.state = .bootFailed → s.ota.lifecycle ≠ .failed → s.engine.free = true →
        exec .releaseRecovery s =
          .next { s.setWork .S .recoveryMarker with
            engine := s.engine.runs .S
              (.extend 0 (s.meas.lane 0) (digestOf (ascii "RECOVERY")) (ascii "RECOVERY") .recovery) })) ∧
    (∀ ch, s.request ch 0x62#8 = some [] →
      (s.boot.state ≠ .released → exec (.restartPlatform ch) s = .next (s.reply ch .wrongState [])) ∧
      (s.boot.state = .released →
        ∃ t : State, exec (.restartPlatform ch) s = .next t.settle ∧ t.chA = Channel.reset ∧ t.hold = true ∧
          t.owner.grant = none ∧ t.meas = { lanes := List.replicate 8 (List.replicate 32 0#8), log := [], bootOpen := true } ∧
          t.checker.fown = true ∧ t.boot.stage = .phaseWait ∧ t.boot.state = .verifying ∧ t.boot.mode = .none ∧
          t.boot.booted = none ∧ t.boot.record = s.boot.record ∧ t.ota = s.ota ∧ t.settings = s.settings ∧
          t.guard = s.guard ∧ t.engine.attest = s.engine.attest ∧ t.engine.order = [.S, .A, .F] ∧
          t.engine.claimA = none ∧ t.engine.claimS = s.engine.claimS ∧
          t.engine.claimF = (s.engine.claimF.map fun p => { p with dropped := true }) ∧
          (s.engine.running = none → t.engine.running = none) ∧
          (∀ r, s.engine.running = some r → ∃ r', t.engine.running = some r' ∧ r'.who = r.who ∧
            (r.who = .S → r'.dropped = r.dropped) ∧ (r.who ≠ .S → r'.dropped = true) ∧
            ((∀ p st final, r.job ≠ .finishDigest p st final) → r'.job = r.job)) ∧
          t.store = { s.store with
            fifo := s.store.fifo.filter fun j => j.chan != some .A,
            waiters := s.store.waiters.filter fun w => match w with
              | .job j => j.chan != some .A
              | .boot => !s.boot.active.any fun a => a.asked.change.chan == some .A,
            taken := s.store.taken.map fun x =>
              if x.job.chan = some .A then { x with job := { x.job with orphan := true } } else x } ∧
          (∀ running : Bool,
            (running = true ↔ s.checker.adm = .claiming ∨ s.checker.adm = .reading ∨ s.checker.adm = .checking ∨
              s.checker.adm = .hashing ∨ s.checker.adm = .committing) →
            t.checker = { s.checker.discard with
              fown := true, claimed := false, result := none,
              flash := s.checker.flash.map fun f => { f with dropped := true },
              adm := if running then .failed else .idle,
              admBank := if running then s.checker.admBank else none,
              admReason := if running then some .aborted else none }) ∧
          t.boot.changes = (s.boot.changes.filter fun a => a.change.chan != some .A) ∧
          (s.boot.confirm = none → t.boot.confirm = none) ∧
          (∀ k (cut : Prop), s.boot.confirm = some k →
            (cut ↔ (∃ a b e d, a ∈ s.boot.changes ∧ a.change = .confirmBank b e d) ∨
              (∃ a b e d, s.boot.active = some a ∧ a.asked.change = .confirmBank b e d) ∧
                ∀ x, s.store.taken = some x → x.job.filer ≠ .boot) →
            (cut → t.boot.confirm = none) ∧ (¬ cut → t.boot.confirm = some { k with live := false })) ∧
          (∀ untaken : Prop, (untaken ↔ ∀ x, s.store.taken = some x → x.job.filer = .precharge → x.job.orphan = true) →
            ((∀ n cand before, s.chA.work ≠ .verifyPrecharge n cand before) → t.owner.table = s.owner.table) ∧
            (∀ n cand before, s.chA.work = .verifyPrecharge n cand before →
              (¬ untaken ∨ s.owner.entry n = none → t.owner.table = s.owner.table) ∧
              (untaken → s.owner.entry n ≠ none →
                (∀ e, before = some e → t.owner.table = (s.setHold e).owner.table) ∧
                (before = none → t.owner.table = s.owner.table.filter fun e => e.slot != n)))) ∧
          (∀ e c, e ∈ t.ctx.entries → e.ctx = some c →
            c.owner = .S ∧ c.mask = 0#8 ∧ (s.owner.grant.isSome = true → c.needsOwner = false)) ∧
          t.ctx = { s.ctx with entries := s.ctx.entries.map fun e => match e.ctx with
            | none => e
            | some c =>
              if c.owner = .A ∨ c.mask ≠ 0#8 ∨ (s.owner.grant.isSome = true ∧ c.needsOwner = true) then
                { epoch := e.epoch + 1#8, ctx := none }
              else e } ∧
          t.link = { s.link with line := match s.link.line with
            | .write .A _ => .ignoring
            | .readReply .A _ => .readReleased
            | l => l } ∧
          (s.boot.active = none → t.boot.active = none) ∧
          (∀ a (gone : Prop), s.boot.active = some a →
            (gone ↔ a.asked.change.chan = some .A ∧ ∀ x, s.store.taken = some x → x.job.filer ≠ .boot) →
            (gone → t.boot.active = none) ∧
            (¬ gone → t.boot.active =
              some { a with asked := { a.asked with live := a.asked.change.chan != some .A } })) ∧
          (ch = .S → t.chS = { s.chS with state := .replyReady, work := .none, reply := some { status := .ok, body := [2#8] } }) ∧
          (ch = .A → t.chS = s.chS)))

/-- SELECT BANK and ADMIT BANK: the refusals in their order, and the boot record change that the request asks for, whose program
begins when nothing else is outstanding (R171, R175, R176, R153).
The oldest waiting change follows when none is outstanding, and its job is built from the RAM copy when it is filed; a commit change
whose epochs are below a floor then files no job and ends the admission FAILED(ROLLBACK) (R153, R178).
The end of a boot record job: the RAM copy takes the built record at the commit alone (R153), and the asker goes on: SELECT BANK replies
the status (R171); an admission's CLAIMING change asserts FOWN, and READING begins when nothing of claimant F is left over, its
commit change ends it PASSED, and either ends it FAILED(STORE_FAULT) without a commit, with ADMISSION_DONE (R176, R178, R179, R183); an
asker that is gone learns nothing (R153, R181).
Of bank choice: a counted trial is checked, one that cannot be counted fails with STORE_FAULT (R157); after a failed check the other
bank is tried when it is ADMITTED and untried, or the phase is BOOT_FAILED (R158); a bank of three trials fails with TRIALS and counts as
REJECTED, the other as preferred, even without a commit (R156); the record of a pass leads on with its status (R160).
That the other bank so preferred is tried also when it is only TRIAL, its trial counted first, and that with a trial count of 3,
for which R157's table has no row, it is not tried and the phase ends in BOOT_FAILED, is the model's reading (log 22).
That the work a request files starts within the command is the model's choice (log 11). -/
def Obligations.SelectAndAdmitAskForTheirChange : Prop :=
  (∀ (s : State) (n : Byte) (b : Bank), s.quiet = true → n = (match b with | .b0 => 0#8 | .b1 => 1#8) →
    (s.request .A 0x63#8 = some [n] →
      (s.boot.mode = .normal ∧ s.boot.booted = some b → exec .selectBank s = .next (s.reply .A .badArgument [])) ∧
      (s.boot.mode ≠ .normal ∨ s.boot.booted ≠ some b →
        ((s.boot.record.bank b).state ≠ .admitted → exec .selectBank s = .next (s.reply .A .wrongState [])) ∧
        (∀ e, (s.boot.record.bank b).state = .admitted → e = (s.boot.record.bank b).epochs →
          (e.loader < s.ota.loader ∨ e.system < s.ota.system ∨ e.radio < s.ota.radio →
            exec .selectBank s = .next (s.reply .A .rollback [])) ∧
          (s.ota.loader ≤ e.loader ∧ s.ota.system ≤ e.system ∧ s.ota.radio ≤ e.radio →
            (s.boot.record.preferred = b → exec .selectBank s = .next (s.reply .A .ok [])) ∧
            (∀ st p, s.boot.record.preferred ≠ b → s.boot.active = none → s.store.idle = true →
              s.store.gen 255 ≠ 0xFFFFFFFF#32 → s.store.place = some (st, p) →
              exec .selectBank s = .next ((s.setWork .A .selectBank).runsChange (.select b) st p)))))) ∧
    (s.request .A 0x70#8 = some [n] →
      (s.boot.state ≠ .released → exec .admitBank s = .next (s.reply .A .wrongState [])) ∧
      (s.boot.state = .released →
        (s.checker.adm = .claiming ∨ s.checker.adm = .reading ∨ s.checker.adm = .checking ∨ s.checker.adm = .hashing ∨
            s.checker.adm = .committing → exec .admitBank s = .next (s.reply .A .busy [])) ∧
        (s.checker.adm = .idle ∨ s.checker.adm = .passed ∨ s.checker.adm = .failed →
          (s.boot.mode = .normal ∧ s.boot.booted = some b → exec .admitBank s = .next (s.reply .A .badArgument [])) ∧
          (∀ st p, s.boot.mode ≠ .normal ∨ s.boot.booted ≠ some b → s.boot.active = none → s.store.idle = true →
            s.store.gen 255 ≠ 0xFFFFFFFF#32 → s.store.place = some (st, p) →
            exec .admitBank s =
              .next (({ s with checker := { s.checker.begin .admission b with
                  adm := .claiming, admBank := some b, admReason := none, result := none, claimed := false } } : State).reply .A
                .accepted [] |>.runsChange (.claiming b) st p)))))) ∧
  (∀ (s : State) (a : Asked) (rest : List Asked), s.boot.active = none → s.boot.changes = a :: rest →
    s.settle1 =
      some { s with boot := { s.boot with active := some { asked := a, built := none }, changes := rest },
                    store := { s.store with waiters := s.store.waiters ++ [.boot] } }) ∧
  (∀ (s u : State) (a : Asked) (rest : List Waiter) (r : BootRec), s.boot.active = some { asked := a, built := none } →
    s.store.waiters = .boot :: rest → s.store.fifo.length < 2 → r = s.boot.record.apply a.change →
    u = { s with store := { s.store with waiters := rest } } →
    ((∀ b e d, a.change = .commitAdm b e d →
        s.ota.loader ≤ e.loader ∧ s.ota.system ≤ e.system ∧ s.ota.radio ≤ e.radio) →
      s.settle1 =
        some { u with
          boot := { s.boot with active := some { asked := a, built := some r } },
          store := { u.store with fifo := s.store.fifo ++
            [{ slot := 255, record := plainRec .bootRecord (bootRecPayload r), expected := none,
               writer := (match a.change with
                 | .claiming _ | .commitAdm _ _ _ => .imageChecker
                 | _ => .bootController),
               chan := (match a.change with
                 | .select _ | .claiming _ | .commitAdm _ _ _ | .confirmBank _ _ _ => some .A
                 | _ => none),
               filer := .boot, orphan := false }] } }) ∧
    (∀ b e d, a.change = .commitAdm b e d → a.live = true →
      e.loader < s.ota.loader ∨ e.system < s.ota.system ∨ e.radio < s.ota.radio →
      s.settle1 =
        some (({ u with
          boot := { s.boot with active := none },
          checker := { s.checker.discard with
            fown := false, adm := .failed, admReason := some (.check .rollback), result := none, claimed := false } } : State).raise
          .A .admissionDone))) ∧
  (∀ (s v : State) (j : WriteJob) (a : Asked) (r : BootRec) (o : JobEnd) (st : Status), j.filer = .boot →
    s.boot.active = some { asked := a, built := some r } →
    (∃ g, o = .commit g ∧ st = .ok ∧ v = { s with boot := { s.boot with active := none, record := r } }) ∨
      o = .fail st ∧ st ≠ .ok ∧ v = { s with boot := { s.boot with active := none } } →
    s.deliver j o = v.changeEnded a st ∧
    (∀ b, a.change = .select b →
      (a.live = true → s.deliver j o = v.reply .A st []) ∧ (a.live = false → s.deliver j o = v)) ∧
    (∀ b e d, a.change = .claiming b ∨ a.change = .commitAdm b e d →
      (a.live = false → s.deliver j o = v) ∧
      (a.live = true → st ≠ .ok →
        s.deliver j o =
          ({ v with checker := { s.checker.discard with
              fown := false, adm := .failed, admReason := some .storeFault, result := none, claimed := false } } : State).raise .A
            .admissionDone) ∧
      (a.live = true → st = .ok →
        (a.change = .claiming b → s.deliver j o = { v with checker := { s.checker with fown := true, claimed := true } }) ∧
        (a.change = .commitAdm b e d →
          s.deliver j o =
            ({ v with checker := { s.checker.discard with
                fown := false, adm := .passed, admReason := none, claimed := false,
                result := some { epochs := e, digest := d, segs := manifestCount s.checker.manifest } } } : State).raise .A
              .admissionDone))) ∧
    (∀ b f e d, a.change = .passed b f e d →
      s.deliver j o = ({ v with boot := { v.boot with passStatus := some st } } : State).afterRecord b f) ∧
    (∀ (p q : Bank) (w : Boot), p ≠ q →
      (a.change = .trialInc p → st = .ok →
        w = (match p with
          | .b0 => { v.boot with tried0 := true }
          | .b1 => { v.boot with tried1 := true }) →
        s.deliver j o = { v with boot := { w with stage := .checking p false }, checker := s.checker.begin .boot p }) ∧
      (∀ untried : Prop, a.change = .reject p ∧ w = v.boot ∨
          a.change = .trialInc p ∧ st ≠ .ok ∧
            w = (match p with
              | .b0 => { v.boot with reason0 := .storeFault, tried0 := true }
              | .b1 => { v.boot with reason1 := .storeFault, tried1 := true }) →
        (untried ↔ v.boot.assumed ≠ some q ∧ (match q with | .b0 => v.boot.tried0 | .b1 => v.boot.tried1) = false) →
        ((v.boot.record.bank q).state = .admitted → untried →
          s.deliver j o =
            { v with boot := { (match q with | .b0 => { w with tried0 := true } | .b1 => { w with tried1 := true }) with
                       stage := .checking q false },
                     checker := s.checker.begin .boot q }) ∧
        ((v.boot.record.bank q).state ≠ .admitted ∨ ¬ untried →
          s.deliver j o = ({ v with boot := { w with stage := .failed, state := .bootFailed } } : State).raise .S .bootFailed)) ∧
      (a.change = .trialsOut p → r = s.boot.record.apply a.change → s.boot.record.preferred = p → s.boot.assumed = none →
        w = (match p with
          | .b0 => { v.boot with reason0 := .trials, assumed := if st = .ok then none else some p }
          | .b1 => { v.boot with reason1 := .trials, assumed := if st = .ok then none else some p }) →
        ((s.boot.record.bank q).state = .admitted →
          s.deliver j o =
            { v with boot := { (match q with | .b0 => { w with tried0 := true } | .b1 => { w with tried1 := true }) with
                       stage := .checking q false },
                     checker := s.checker.begin .boot q }) ∧
        ((s.boot.record.bank q).state = .trial → st ≠ .ok → (s.boot.record.bank q).trials ≤ 2 →
          s.deliver j o =
            { v with boot := { w with stage := .incWait q,
                                      changes := s.boot.changes ++ [{ change := .trialInc q, live := true }] } }) ∧
        ((s.boot.record.bank q).state = .unknown ∨ (s.boot.record.bank q).state = .rejected ∨
            (s.boot.record.bank q).state = .trial ∧ (st = .ok ∨ 3 ≤ (s.boot.record.bank q).trials) →
          s.deliver j o =
            ({ v with boot := { w with stage := .failed, state := .bootFailed } } : State).raise .S .bootFailed)))) ∧
  (∀ (s : State) (leftover : Prop), s.checker.startWait = true →
    s.checker.work = .boot ∨ s.checker.work = .admission ∧ s.checker.claimed = true →
    s.boot.changes = [] → s.store.waiters = [] → s.store.fifo = [] → s.store.taken = none → s.store.marksHeld = [] →
    s.ota.queue = [] →
    (leftover ↔ s.checker.flash ≠ none ∨ s.engine.claimF ≠ none ∨ ∃ r, s.engine.running = some r ∧ r.who = .F) →
    (leftover → s.checkTurn = none) ∧
    (¬ leftover →
      s.settle1 =
        some { s with checker := { s.checker with
          state := .reading, startWait := false, claimed := false, flash := some { read := .id, dropped := false },
          adm := if s.checker.work = .admission then .reading else s.checker.adm } }))

/-- ABORT ADMISSION in CLAIMING, READING, CHECKING or HASHING ends the admission FAILED(ABORTED): with no flash read in flight FOWN is
deasserted, ADMISSION_DONE raised and OK placed with the state before; with one the reply waits for its end. In every other state
it is WRONG_STATE with the state (R181, R182).
CONFIRM BOOT: WRONG_STATE outside a NORMAL release, OK at once for an ADMITTED bank, WRONG_STATE with the bank's state when it is
neither ADMITTED nor TRIAL, and for a TRIAL bank the change that makes it ADMITTED (R186, R187). A change that ends
without a commit ends the confirmation with the store's status (R187). Its commit files the advance of the LOADER floor, on whose
outcome SYSTEM and then RADIO follow (R188); then the other bank, when it is TRIAL or ADMITTED and below a floor, is to become
REJECTED, and the reply gives the floors and outcomes, both banks' states and the preferred bank (R189). A confirmation that a
restart has cut from its request has no reply (R190).
That the work a request files starts within the command is the model's choice (log 11). Where the bytes of CONFIRM BOOT's reply
stand is read by the model (log 38). -/
def Obligations.AbortAndConfirm : Prop :=
  (∀ s : State, s.quiet = true → s.request .A 0x72#8 = some [] →
    (s.checker.adm = .committing ∨ s.checker.adm = .passed ∨ s.checker.adm = .failed ∨ s.checker.adm = .idle →
      exec .abortAdmission s = .next (s.reply .A .wrongState [s.checker.adm.code])) ∧
    (s.checker.adm = .claiming ∨ s.checker.adm = .reading ∨ s.checker.adm = .checking ∨ s.checker.adm = .hashing →
      (s.checker.flash = none →
        ∃ t : State, exec .abortAdmission s = .next ((t.raise .A .admissionDone).reply .A .ok [s.checker.adm.code]) ∧
          t.checker = { s.checker.discard with
            fown := false, adm := .failed, admReason := some .aborted, claimed := false, result := none } ∧
          t.chA = s.chA ∧ t.chS = s.chS ∧ t.store = s.store ∧ t.ota = s.ota ∧ t.meas = s.meas ∧ t.ctx = s.ctx ∧
          t.owner = s.owner ∧ t.boot.record = s.boot.record) ∧
      (∀ f, s.checker.flash = some f →
        ∃ t : State, exec .abortAdmission s = .next (t.setWork .A (.abortWait s.checker.adm)) ∧
          t.checker = { s.checker.discard with
            adm := .failed, admReason := some .aborted, claimed := false, result := none,
            flash := some { f with dropped := true } } ∧
          t.chA = s.chA ∧ t.chS = s.chS ∧ t.store = s.store ∧ t.ota = s.ota ∧ t.boot.record = s.boot.record))) ∧
  (∀ (s : State), s.quiet = true → s.request .A 0x73#8 = some [] →
    (s.boot.state ≠ .released ∨ s.boot.mode ≠ .normal → exec .confirmBoot s = .next (s.reply .A .wrongState [])) ∧
    (∀ b, s.boot.state = .released → s.boot.mode = .normal → s.boot.booted = some b →
      ((s.boot.record.bank b).state = .admitted →
        exec .confirmBoot s =
          .next (s.reply .A .ok [byte s.ota.loader, 0#8, byte s.ota.system, 0#8, byte s.ota.radio, 0#8, 2#8,
            (s.boot.record.bank b.other).state.code])) ∧
      ((s.boot.record.bank b).state = .unknown ∨ (s.boot.record.bank b).state = .rejected →
        exec .confirmBoot s = .next (s.reply .A .wrongState [(s.boot.record.bank b).state.code])) ∧
      (∀ pass st p, (s.boot.record.bank b).state = .trial → s.boot.bootedPass = some pass → s.boot.active = none →
        s.store.idle = true → s.store.gen 255 ≠ 0xFFFFFFFF#32 → s.store.place = some (st, p) →
        exec .confirmBoot s =
          .next (({ s.setWork .A .confirm with boot := { s.boot with
              confirm := some { bank := b, epochs := pass.epochs, outs := [], live := true } } } : State).runsChange
            (.confirmBank b pass.epochs pass.digest) st p)))) ∧
  (∀ (s : State) b e d live,
    s.changeEnded { change := .confirmBank b e d, live := live } .ok = s.fileOta (.advance .loader e.loader .confirm)) ∧
  (∀ (s : State) (k : Confirm), s.boot.confirm = some k →
    (∀ b e d live st, st ≠ .ok → ∀ u : State, u = { s with boot := { s.boot with confirm := none } } →
      s.changeEnded { change := .confirmBank b e d, live := live } st = if k.live then u.reply .A st [] else u) ∧
    (∀ (c : Counter) (st : Status) (k' : Confirm) (u : State),
      k' = { k with outs := k.outs ++ [{ status := st, value := s.ota.value c }] } →
      u = { s with boot := { s.boot with confirm := some k' } } →
      (k.outs = [] → s.advanceEnded c .confirm st = u.fileOta (.advance .system k.epochs.system .confirm)) ∧
      (∀ o1, k.outs = [o1] → s.advanceEnded c .confirm st = u.fileOta (.advance .radio k.epochs.radio .confirm)) ∧
      (∀ o1 o2 other, k.outs = [o1, o2] → other = s.boot.record.bank k.bank.other →
        ((other.state = .trial ∨ other.state = .admitted) ∧
          (other.epochs.loader < s.ota.loader ∨ other.epochs.system < s.ota.system ∨ other.epochs.radio < s.ota.radio) →
          s.advanceEnded c .confirm st = { u with boot := { u.boot with
            changes := s.boot.changes ++ [{ change := .confirmReject k.bank.other, live := true }] } }) ∧
        ((other.state = .unknown ∨ other.state = .rejected) ∨
            s.ota.loader ≤ other.epochs.loader ∧ s.ota.system ≤ other.epochs.system ∧ s.ota.radio ≤ other.epochs.radio →
          s.advanceEnded c .confirm st =
            ({ s with boot := { s.boot with confirm := none } } : State).confirmed k' .ok))) ∧
    (∀ b live st, s.changeEnded { change := .confirmReject b, live := live } st =
      ({ s with boot := { s.boot with confirm := none } } : State).confirmed k st))

/-- The beginning of a boot phase: what it clears, the copy of settings 1, 2 and 3, and WAITING or the first try of bank choice
(R155, R157, R159).
That the work a request files starts within the command is the model's choice (log 11). That the phase begins in a command of
its own is the model's reading (log 15). -/
def Obligations.BootPhaseBeginsWithBankChoice : Prop :=
  ∀ (s : State) (clear : Boot), s.boot.stage = .phaseWait → s.boot.confirm = none →
    (∀ t, s.store.taken = some t → t.job.filer ≠ .boot) →
    clear = { s.boot with
      reason0 := .none, reason1 := .none, factory := [], passStatus := none, bootedPass := none, mode := .none,
      booted := none, tried0 := false, tried1 := false, assumed := none,
      phaseCopy := { base0 := s.settings.bank0Base, base1 := s.settings.bank1Base, size := s.settings.bankSize } } →
    (s.ota.lifecycle = .failed ∨ s.ota.rootCount = 0 →
      exec .bootPhaseBegin s = .next ({ s with boot := { clear with stage := .waiting, state := .waiting } } : State).settle) ∧
    (s.ota.lifecycle ≠ .failed → s.ota.rootCount ≠ 0 → ∀ (p q : Bank) (first : Option (Bank × Bool)),
      p = s.boot.record.preferred → p ≠ q →
      (∀ b factory, first = some (b, factory) →
        (s.boot.record.bank p).state = .unknown ∧ (s.boot.record.bank q).state = .unknown ∧ b = .b0 ∧ factory = true ∨
        (s.boot.record.bank p).state = .admitted ∧ b = p ∧ factory = false ∨
        ((s.boot.record.bank p).state = .unknown ∨ (s.boot.record.bank p).state = .rejected) ∧
          (s.boot.record.bank q).state = .admitted ∧ b = q ∧ factory = false →
        exec .bootPhaseBegin s =
          .next ({ s with
            boot := { clear with state := .verifying, stage := .checking b factory,
                                 tried0 := b == .b0, tried1 := b == .b1 },
            checker := s.checker.begin .boot b } : State).settle) ∧
      ((s.boot.record.bank p).state = .trial → (s.boot.record.bank p).trials ≤ 2 →
        exec .bootPhaseBegin s =
          .next ({ s with boot := { clear with
            state := .verifying, stage := .incWait p,
            changes := s.boot.changes ++ [{ change := .trialInc p, live := true }] } } : State).settle) ∧
      ((s.boot.record.bank p).state = .trial → 3 ≤ (s.boot.record.bank p).trials →
        exec .bootPhaseBegin s =
          .next ({ s with boot := { clear with
            state := .verifying, stage := .trialsWait p,
            changes := s.boot.changes ++ [{ change := .trialsOut p, live := true }] } } : State).settle) ∧
      (((s.boot.record.bank p).state = .unknown ∨ (s.boot.record.bank p).state = .rejected) →
        (s.boot.record.bank q).state ≠ .admitted →
        ¬ ((s.boot.record.bank p).state = .unknown ∧ (s.boot.record.bank q).state = .unknown) →
        exec .bootPhaseBegin s =
          .next (({ s with boot := { clear with state := .bootFailed, stage := .failed } } : State).raise .S .bootFailed).settle))

/-- The release: FOWN is deasserted, the boot lanes close, channel A opens with the grant set of setting 7, HOLD_N is released, mode
and booted bank are set, BOOT_DONE is raised, and RELEASE RECOVERY is answered. While an EXTEND job of a boot lane runs, the
release waits for it after FOWN is deasserted (R12, R15, R136, R167, R168). A release reached by a pass waits while an OWNER RESET is in
progress on channel S (R118, R167).
That the work a request files starts within the command is the model's choice (log 11). How RELEASE and BOOT_LANES_CLOSE share
the steps is the model's reading (log 16). -/
def Obligations.ReleaseInItsOrder : Prop :=
  (∀ (s u : State) (m : BootMode) (b : Option Bank),
    (m = .normal → s.chS.work ≠ .resetEpoch ∧ ∀ slot done left out, s.chS.work ≠ .resetWalk slot done left out) →
    s.power = .running → s.chA.state = .closed →
    u = { s with
      hold := false, checker := { s.checker with fown := false }, meas := { s.meas with bootOpen := false },
      chA := { Channel.reset with state := .idle, grants := BitVec.ofNat 6 s.settings.grantsA },
      boot := { s.boot with stage := .released, state := .released, mode := m, booted := b } }.raise .S .bootDone →
    ((∀ r lane v d l src, s.engine.running = some r → r.job = .extend lane v d l src → 4 ≤ lane) →
      (s.boot.stage = .releaseReady m b →
        (s.chS.work ≠ .recoveryRelease → exec .release s = .next u.settle) ∧
        (s.chS.work = .recoveryRelease → exec .release s = .next (u.reply .S .ok [3#8, m.code]).settle)) ∧
      (s.boot.stage = .releaseClosing m b → s.checker.fown = false →
        (s.chS.work ≠ .recoveryRelease → exec .bootLanesClose s = .next u.settle) ∧
        (s.chS.work = .recoveryRelease → exec .bootLanesClose s = .next (u.reply .S .ok [3#8, m.code]).settle))) ∧
    (∀ r lane v d l src, s.engine.running = some r → r.job = .extend lane v d l src → lane < 4 →
      s.boot.stage = .releaseReady m b →
      exec .release s =
        .next { s with checker := { s.checker with fown := false }, boot := { s.boot with stage := .releaseClosing m b } })) ∧
  (∀ (s : State) (b : Option Bank),
    s.chS.work = .resetEpoch ∨ (∃ slot done left out, s.chS.work = .resetWalk slot done left out) →
    (s.boot.stage = .releaseReady .normal b → exec .release s = .next s) ∧
    (s.boot.stage = .releaseClosing .normal b → exec .bootLanesClose s = .next s))

/-! ### Power, resets and the start-up load (R14, R50 to R53, R75) -/

/-- POWER_ON, PIN_RESET and POWER_LOSS set every block to its reset state over the cells of the two arrays; the slot guard and its
freeze survive a pin reset alone (R14, R52, R75). PIN_RESET_RELEASE begins the start-up load (R50).
What a cut leaves: with nothing in progress the arrays are as they were; a cut one-time cell reads cleared or still set, and no
other cell changes (R35); of a page being programmed each bit is as intended or still erased, of a voided page the generation is
what the cut left, of a block being erased the pages below the cut are erased and the page at the cut has each bit as it was or
erased (R53, R78).
What the lines and latches show while the part is off is the model's choice (log 31), and what RAM holds before the load (log
8). -/
def Obligations.ResetsKeepTheArraysAlone : Prop :=
  (∀ (s : State) (cut : Cut),
    (∀ c power guard,
      (c = .powerOn cut ∧ power = .inReset ∧ guard = { lower := 1, upper := 0, invert := false, frozen := false } ∨
        s.power ≠ .off ∧ c = .pinReset cut ∧ power = .inReset ∧ guard = s.guard ∨
        s.power ≠ .off ∧ c = .powerLoss cut ∧ power = .off ∧ guard = { lower := 1, upper := 0, invert := false, frozen := false }) →
      exec c s =
        .next { State.reset with
          power := power, rcv := s.rcv, ota := Ota.reset (s.ota.afterCut cut), store := Store.reset (s.store.afterCut cut),
          guard := guard, pending := s.pending }) ∧
    (s.power = .inReset → exec .pinResetRelease s = .next { s with power := .loading })) ∧
  (∀ (o : Ota) (cut : Cut) (c : Cells), c = o.cells →
    (o.current = none → o.afterCut cut = c) ∧
    (∀ r, o.current = some r →
      (∀ b, r.op = .retire b →
        o.afterCut cut = if cut.cells.getLsbD 0 then c else { c with retired := c.retired &&& ~~~ (1#40 <<< b) }) ∧
      (∀ k target filer, r.op = .advance k target filer →
        o.afterCut cut = if cut.cells.getLsbD 0 then c else
          match k with
          | .loader => { c with loader := c.loader &&& ~~~ (1#255 <<< r.pos) }
          | .system => { c with system := c.system &&& ~~~ (1#255 <<< r.pos) }
          | .radio => { c with radio := c.radio &&& ~~~ (1#255 <<< r.pos) }
          | .ownerEpoch => { c with ownerEpoch := c.ownerEpoch &&& ~~~ (1#64 <<< r.pos) }) ∧
      (r.op = .seal →
        o.afterCut cut = if cut.cells.getLsbD 0 then c else { c with locks := c.locks ||| (1#5 <<< (2 - r.pos)) }) ∧
      (r.op.byteAt r.pos = none → (∀ b, r.op ≠ .retire b) → (∀ k target filer, r.op ≠ .advance k target filer) → r.op ≠ .seal →
        o.afterCut cut = c) ∧
      (∀ copy, r.op = .identity copy → r.pos < 256 →
        o.afterCut cut =
          { c with page0 := c.page0.set r.pos (byteAt c.page0 r.pos &&& (byteAt copy (r.pos % 64) ||| cut.cells)) }) ∧
      (∀ seed, r.op = .keys seed → seed.length = 32 →
        (r.pos < 32 →
          o.afterCut cut = { c with seed := c.seed.set r.pos (byteAt c.seed r.pos &&& (byteAt seed r.pos ||| cut.cells)) }) ∧
        (∀ i, r.pos = 32 + i → i < 32 →
          o.afterCut cut =
            { c with seedCompl := c.seedCompl.set i (byteAt c.seedCompl i &&& (byteAt seed i ^^^ 0xFF#8 ||| cut.cells)) }) ∧
        (r.pos = 64 → o.afterCut cut = { c with keysMarker := c.keysMarker &&& cut.cells })) ∧
      (∀ e d root, r.op = .root e d → c.roots[e]? = some root →
        (r.pos < 32 →
          o.afterCut cut =
            { c with roots := c.roots.set e { root with
                digest := root.digest.set r.pos (byteAt root.digest r.pos &&& (byteAt d r.pos ||| cut.cells)) } }) ∧
        (r.pos = 32 → o.afterCut cut = { c with roots := c.roots.set e { root with marker := root.marker &&& cut.cells } })))) ∧
  (∀ (st : Store) (cut : Cut),
    (st.op = none → st.afterCut cut = st.mem) ∧
    (∀ p bytes, st.op = some (.program p bytes) ∨ (∃ src, st.op = some (.copy src p bytes)) →
      bytes.length = 256 → cut.page.length = 256 →
      st.afterCut cut = Mem.setPage st.mem p (List.zipWith (· ||| ·) bytes cut.page)) ∧
    (∀ p, st.op = some (.void p) ∨ st.op = some (.copyVoid p) → p < 640 →
      st.afterCut cut =
        Mem.writeBytes st.mem (256 * p + 1)
          (List.zipWith (· &&& ·) (Mem.readBytes st.mem 4 (256 * p + 1)) (be 4 cut.gen.toNat))) ∧
    (∀ b m p, st.op = some (.erase b) ∨ st.op = some (.recoveryErase b) → cut.page.length = 256 →
      m = Mem.clear st.mem (4096 * b) (4096 * b + 256 * min cut.pages 16) → p = 16 * b + cut.pages →
      (16 ≤ cut.pages → st.afterCut cut = m) ∧
      (cut.pages < 16 → st.afterCut cut = Mem.setPage m p (List.zipWith (· ||| ·) (Mem.readPage m p) cut.page))))

/-- The start-up load: identity, keys, roots, counters and lifecycle from the cells, the attestation key when the device keys
exist, the scan of the store, uptime 0, channel S open with PLATFORM and UPDATE, and the boot phase's waits; the arrays are only
read (R12, R15, R38 to R41, R44, R50).
The scan: the LIVE page of each slot, the state of each block, the OPEN and the spare block, the block set aside for a recovery
erase, DEGRADED (R60, R61, R72); that erase is the first work after the load, and the entries of its block move to their
duplicates (R61). From the records the scan found: the settings of slot 0, each clamped, or the defaults (R21, R50), the boot record
of slot 255 or the empty one (R152), a hold-off entry for each good verifier and for no other slot (R101).
The lifecycle by the tests of R44 in their order.
The places of the fields in the one-time pages are the model's (log 7). That the load is one command with the waits of the boot
phase after it is the model's reading (log 15), that what is due starts within the command (log 11), that the recovery erase begins at
the end of this command (log 24), and that a candidate without a good page counts as generation 0 (log 40). -/
def Obligations.LoadAndLifecycle : Prop :=
  (∀ s : State, s.power = .loading →
    ∃ t : State, exec .startUpLoad s = .next t.settle ∧ t.power = .running ∧ t.hold = s.hold ∧ t.chA = s.chA ∧
      t.chS = { Channel.reset with state := .idle, grants := 0x03#6 } ∧ t.ota.cells = s.ota.cells ∧ t.store.mem = s.store.mem ∧
      t.ota.identity = s.ota.cells.copies.find? goodIdentity ∧ t.ota.lifecycle = s.ota.cells.lifecycle ∧
      (t.ota.keysExist = true ↔
        s.ota.cells.keysMarker ≠ 0xFF#8 ∧ s.ota.cells.seedCompl = s.ota.cells.seed.map fun x => x ^^^ 0xFF#8) ∧
      t.ota.roots = s.ota.cells.roots.map (fun r => { present := r.marker != 0xFF#8, digest := r.digest }) ∧
      t.ota.loader = counterValue s.ota.cells.loader ∧ t.ota.system = counterValue s.ota.cells.system ∧
      t.ota.radio = counterValue s.ota.cells.radio ∧ t.ota.epoch = counterValue s.ota.cells.ownerEpoch ∧
      t.engine.attest = (if t.ota.keysExist then some (attestKeyOf s.ota.cells.seed) else none) ∧
      t.owner.uptime = 0 ∧ t.meas.bootOpen = true ∧ t.boot.state = .verifying ∧ t.boot.stage = .phaseWait ∧
      t.guard = s.guard ∧ t.ctx = s.ctx ∧
      ∃ x : Scan, ScanFinds s.store.mem s.ota.cells.retired x ∧ Recovers s.store.mem s.ota.cells.retired x t.store ∧
        (∀ n e, x.store.entry n = some e →
          x.store.liveRec n = (parsePage (Mem.readPage s.store.mem e.page)).map fun g => g.r) ∧
        (x.store.liveRec 0 = none → t.settings = Settings.defaults) ∧
        (∀ r, x.store.liveRec 0 = some r → r.payload.length ≠ 28 → t.settings = Settings.defaults) ∧
        (∀ (r : Rec) (v : Nat → Nat), x.store.liveRec 0 = some r → r.payload.length = 28 →
          (∀ k, v k = beNat (slice r.payload (4 * k - 4) 4)) →
          t.settings = {
            bank0Base := min 0xFFF000 (v 1) / 4096 * 4096, bank1Base := min 0xFFF000 (v 2) / 4096 * 4096,
            bankSize := max 65536 (min 16777216 (v 3)) / 4096 * 4096, ownerIdle := max 60 (min 3600 (v 4)),
            enablesA := v 5 % 8, enablesS := v 6 % 8, grantsA := v 7 % 64 }) ∧
        (x.store.liveRec 255 = none → t.boot.record = BootRec.empty) ∧
        (∀ r, x.store.liveRec 255 = some r → t.boot.record = bootRecOf r.payload) ∧
        (∀ n r, 1 ≤ n → n ≤ 254 → x.store.liveRec n = some r → goodVerifier r = true →
          t.owner.entry n =
            some { slot := n, count := verifierCount r.payload, lastEvent := 0,
                   holdUntil := holdOff (verifierParams r.payload) (verifierCount r.payload) }) ∧
        (∀ n, (∀ r, 1 ≤ n → n ≤ 254 → x.store.liveRec n = some r → goodVerifier r = false) → t.owner.entry n = none)) ∧
  (∀ (c : Cells) (marker seedOk locked0 locked1 locked2 copy : Bool),
    marker = (c.keysMarker != 0xFF#8) → seedOk = (c.seedCompl == c.seed.map fun x => x ^^^ 0xFF#8) →
    locked0 = c.locks.getLsbD 0 → locked1 = c.locks.getLsbD 1 → locked2 = c.locks.getLsbD 2 →
    (copy = true ↔ ∃ k, k ∈ c.copies ∧ goodIdentity k = true) →
    c.lifecycle =
      if marker = true ∧ seedOk = false then .failed
      else if locked0 = true ∧ copy = false then .failed
      else if locked0 = true ∧ (locked1 = false ∨ locked2 = false) then .failed
      else if locked0 = true then .sealed
      else if copy = true then .personalized
      else .blank)

/-! ### What every step keeps -/

/-- The state after power-on, by R14, R34, R75, R119, R150 and R154: outside power the only contents are the cells of the arrays.
The invariants that the statements about steps keep hold there.
The other values of the state after power-on are the model's (log 5, log 8). -/
def Obligations.ResetStateIsAsTheSpecSays : Prop :=
  State.reset.hold = true ∧ State.reset.checker.fown = true ∧ State.reset.chS.state = .closed ∧ State.reset.chA.state = .closed ∧
  State.reset.chA.grants = 0#6 ∧ State.reset.attention .S = false ∧ State.reset.attention .A = false ∧
  State.reset.engine.order = [.S, .A, .F] ∧ State.reset.engine.running = none ∧ State.reset.engine.noClaim = true ∧
  State.reset.engine.attest = none ∧ State.reset.guard.lower = 1 ∧ State.reset.guard.upper = 0 ∧
  State.reset.guard.invert = false ∧ State.reset.guard.frozen = false ∧ State.reset.owner.uptime = 0 ∧
  State.reset.owner.grant = none ∧ State.reset.meas.lanes = List.replicate 8 (List.replicate 32 0#8) ∧
  State.reset.meas.log = [] ∧ State.reset.boot.state = .waiting ∧ State.reset.boot.mode = .none ∧
  State.reset.boot.booted = none ∧ State.reset.checker.adm = .idle ∧ State.reset.pending = [] ∧
  (∀ e, e ∈ State.reset.ctx.entries → e.epoch = 0#8 ∧ e.ctx = none) ∧ State.reset.ctx.counter = 0 ∧
  State.reset.ctx.sound = true ∧ State.reset.memOk = true ∧ State.reset.keysCurrent = true ∧ State.reset.lanesReplay ∧
  State.reset.keysSound

/-- Every step keeps the canonical form of the store array.
The form and the value of an unlisted cell are the model's (log 6). -/
def Obligations.MemoryKeepsItsForm : Prop :=
  ∀ s t : State, step s = .next t → s.memOk = true → t.memOk = true

/-- Every step only programs the one-time cells: no cell goes back from cleared to set, no lock bit is taken back, whatever a cut or
a defect leaves of a programming step (00 section 6, R35). -/
def Obligations.OneTimeCellsAreOnlyProgrammed : Prop :=
  ∀ s t : State, step s = .next t → s.ota.cells.OnlyProgrammed t.ota.cells

/-- What a command may change in one direction only: the log grows at its end but for a restart and the resets, a frozen guard stays
until power goes, the clock does not run back but for the resets and the load, and a grant set does not grow but for an opening of
its channel (R16, R77, R99, R137, R15).
A slot's generation, below its top, never falls while the part keeps its power and is not reset (00 section 6, R59, R65). The
start-up load reads it again from the array. -/
def Obligations.OneWayState : Prop :=
  (∀ (c : Instr) (s t : State), exec c s = .next t →
    (c.resets = false → (∀ ch, c ≠ .restartPlatform ch) → s.meas.log <+: t.meas.log) ∧
    (s.guard.frozen = true → (∀ cut, c ≠ .powerOn cut ∧ c ≠ .powerLoss cut) → t.guard = s.guard) ∧
    (c.resets = false → c ≠ .startUpLoad → s.owner.uptime ≤ t.owner.uptime) ∧
    (c ≠ .release → c ≠ .bootLanesClose → t.chA.grants &&& ~~~ s.chA.grants = 0#6) ∧
    (c.resets = false → c ≠ .startUpLoad → t.chS.grants = s.chS.grants)) ∧
  (∀ (c : Instr) (s t : State) (n : Nat), exec c s = .next t → c.resets = false → c ≠ .startUpLoad →
    s.store.gen n ≠ 0xFFFFFFFF#32 → s.store.gen n ≤ t.store.gen n)
/-- HOLD_N goes from asserted to released only at a release: the command is RELEASE or BOOT_LANES_CLOSE, a release was ready, and
then the boot lanes are closed (R136, R161, R167).
How RELEASE and BOOT_LANES_CLOSE share the steps is the model's reading (log 16). -/
def Obligations.OnlyAReleaseLetsThePlatformGo : Prop :=
  ∀ (c : Instr) (s t : State), exec c s = .next t → s.hold = true → t.hold = false →
    (c = .release ∨ c = .bootLanesClose) ∧
    (∃ m b, s.boot.stage = .releaseReady m b ∨ s.boot.stage = .releaseClosing m b) ∧ t.meas.bootOpen = false

/-- Every step keeps the form of the context table: twelve entries, at most four of them pinned (R119, R125). -/
def Obligations.ContextTableKeepsItsForm : Prop :=
  ∀ s t : State, step s = .next t → s.ctx.sound = true → t.ctx.sound = true

/-- Every loaded key stays valid at every step and every command: its generation is its slot's, its domain is in its channel's
grant set, and the owner grant is active when it needs it (R130); with it, a CLOSED channel A has no grant set, and neither channel
has one before the start-up load has ended (R13, R15).
So no entry of channel A is LOADED while the channel is CLOSED, and none at all before the load has ended. -/
def Obligations.LoadedKeysStayValid : Prop :=
  (∀ s t : State, step s = .next t → s.keysSound → t.keysSound) ∧
  (∀ (c : Instr) (s t : State), exec c s = .next t → s.keysSound → t.keysSound) ∧
  (∀ (s : State) (e : CtxEntry) (c : Ctx), s.keysSound → e ∈ s.ctx.entries → e.ctx = some c →
    s.power = .running ∧ (s.chA.state = .closed → c.owner = .S) ∧
    c.gen = s.store.gen c.slot ∧ s.granted c.owner c.domain = true ∧ (c.needsOwner = true → s.owner.grant.isSome = true))

/-- Each lane equals the result of extending 32 zero bytes, in log order, by exactly the digests of the log's entries for that lane
(R138), while each running EXTEND job works on its lane's value. At a restart no EXTEND job of a boot phase may be running, which
R151 rules out. -/
def Obligations.LanesReplayTheLog : Prop :=
  ∀ (c : Instr) (s t : State), exec c s = .next t →
    (∀ ch r lane v d l src, c = .restartPlatform ch → s.engine.running = some r → r.job = .extend lane v d l src →
      r.dropped = true ∨ r.who = .A) →
    s.lanesReplay → t.lanesReplay
end

