-- ==== Sys2Proof/Laws/State.lean ====
section
/-! SUPPORT. What each update of the state leaves: one lemma per field and update, true by computation. -/
namespace Sys2Proof.Machine.State

/-! `setChan` -/

@[simp] theorem setChan_power (s : State) (ch : Chan) (c : Channel) : (s.setChan ch c).power = s.power := by cases ch <;> rfl
@[simp] theorem setChan_rcv (s : State) (ch : Chan) (c : Channel) : (s.setChan ch c).rcv = s.rcv := by cases ch <;> rfl
@[simp] theorem setChan_hold (s : State) (ch : Chan) (c : Channel) : (s.setChan ch c).hold = s.hold := by cases ch <;> rfl
@[simp] theorem setChan_link (s : State) (ch : Chan) (c : Channel) : (s.setChan ch c).link = s.link := by cases ch <;> rfl
@[simp] theorem setChan_settings (s : State) (ch : Chan) (c : Channel) : (s.setChan ch c).settings = s.settings := by cases ch <;> rfl
@[simp] theorem setChan_engine (s : State) (ch : Chan) (c : Channel) : (s.setChan ch c).engine = s.engine := by cases ch <;> rfl
@[simp] theorem setChan_ota (s : State) (ch : Chan) (c : Channel) : (s.setChan ch c).ota = s.ota := by cases ch <;> rfl
@[simp] theorem setChan_store (s : State) (ch : Chan) (c : Channel) : (s.setChan ch c).store = s.store := by cases ch <;> rfl
@[simp] theorem setChan_guard (s : State) (ch : Chan) (c : Channel) : (s.setChan ch c).guard = s.guard := by cases ch <;> rfl
@[simp] theorem setChan_owner (s : State) (ch : Chan) (c : Channel) : (s.setChan ch c).owner = s.owner := by cases ch <;> rfl
@[simp] theorem setChan_ctx (s : State) (ch : Chan) (c : Channel) : (s.setChan ch c).ctx = s.ctx := by cases ch <;> rfl
@[simp] theorem setChan_meas (s : State) (ch : Chan) (c : Channel) : (s.setChan ch c).meas = s.meas := by cases ch <;> rfl
@[simp] theorem setChan_boot (s : State) (ch : Chan) (c : Channel) : (s.setChan ch c).boot = s.boot := by cases ch <;> rfl
@[simp] theorem setChan_checker (s : State) (ch : Chan) (c : Channel) : (s.setChan ch c).checker = s.checker := by cases ch <;> rfl
@[simp] theorem setChan_pending (s : State) (ch : Chan) (c : Channel) : (s.setChan ch c).pending = s.pending := by cases ch <;> rfl

/-! `setWork` -/

@[simp] theorem setWork_power (s : State) (ch : Chan) (w : Work) : (s.setWork ch w).power = s.power := by cases ch <;> rfl
@[simp] theorem setWork_rcv (s : State) (ch : Chan) (w : Work) : (s.setWork ch w).rcv = s.rcv := by cases ch <;> rfl
@[simp] theorem setWork_hold (s : State) (ch : Chan) (w : Work) : (s.setWork ch w).hold = s.hold := by cases ch <;> rfl
@[simp] theorem setWork_link (s : State) (ch : Chan) (w : Work) : (s.setWork ch w).link = s.link := by cases ch <;> rfl
@[simp] theorem setWork_settings (s : State) (ch : Chan) (w : Work) : (s.setWork ch w).settings = s.settings := by cases ch <;> rfl
@[simp] theorem setWork_engine (s : State) (ch : Chan) (w : Work) : (s.setWork ch w).engine = s.engine := by cases ch <;> rfl
@[simp] theorem setWork_ota (s : State) (ch : Chan) (w : Work) : (s.setWork ch w).ota = s.ota := by cases ch <;> rfl
@[simp] theorem setWork_store (s : State) (ch : Chan) (w : Work) : (s.setWork ch w).store = s.store := by cases ch <;> rfl
@[simp] theorem setWork_guard (s : State) (ch : Chan) (w : Work) : (s.setWork ch w).guard = s.guard := by cases ch <;> rfl
@[simp] theorem setWork_owner (s : State) (ch : Chan) (w : Work) : (s.setWork ch w).owner = s.owner := by cases ch <;> rfl
@[simp] theorem setWork_ctx (s : State) (ch : Chan) (w : Work) : (s.setWork ch w).ctx = s.ctx := by cases ch <;> rfl
@[simp] theorem setWork_meas (s : State) (ch : Chan) (w : Work) : (s.setWork ch w).meas = s.meas := by cases ch <;> rfl
@[simp] theorem setWork_boot (s : State) (ch : Chan) (w : Work) : (s.setWork ch w).boot = s.boot := by cases ch <;> rfl
@[simp] theorem setWork_checker (s : State) (ch : Chan) (w : Work) : (s.setWork ch w).checker = s.checker := by cases ch <;> rfl
@[simp] theorem setWork_pending (s : State) (ch : Chan) (w : Work) : (s.setWork ch w).pending = s.pending := by cases ch <;> rfl

/-! `reply` -/

@[simp] theorem reply_power (s : State) (ch : Chan) (st : Status) (b : Bytes) : (s.reply ch st b).power = s.power := by cases ch <;> rfl
@[simp] theorem reply_rcv (s : State) (ch : Chan) (st : Status) (b : Bytes) : (s.reply ch st b).rcv = s.rcv := by cases ch <;> rfl
@[simp] theorem reply_hold (s : State) (ch : Chan) (st : Status) (b : Bytes) : (s.reply ch st b).hold = s.hold := by cases ch <;> rfl
@[simp] theorem reply_link (s : State) (ch : Chan) (st : Status) (b : Bytes) : (s.reply ch st b).link = s.link := by cases ch <;> rfl
@[simp] theorem reply_settings (s : State) (ch : Chan) (st : Status) (b : Bytes) : (s.reply ch st b).settings = s.settings := by cases ch <;> rfl
@[simp] theorem reply_engine (s : State) (ch : Chan) (st : Status) (b : Bytes) : (s.reply ch st b).engine = s.engine := by cases ch <;> rfl
@[simp] theorem reply_ota (s : State) (ch : Chan) (st : Status) (b : Bytes) : (s.reply ch st b).ota = s.ota := by cases ch <;> rfl
@[simp] theorem reply_store (s : State) (ch : Chan) (st : Status) (b : Bytes) : (s.reply ch st b).store = s.store := by cases ch <;> rfl
@[simp] theorem reply_guard (s : State) (ch : Chan) (st : Status) (b : Bytes) : (s.reply ch st b).guard = s.guard := by cases ch <;> rfl
@[simp] theorem reply_owner (s : State) (ch : Chan) (st : Status) (b : Bytes) : (s.reply ch st b).owner = s.owner := by cases ch <;> rfl
@[simp] theorem reply_ctx (s : State) (ch : Chan) (st : Status) (b : Bytes) : (s.reply ch st b).ctx = s.ctx := by cases ch <;> rfl
@[simp] theorem reply_meas (s : State) (ch : Chan) (st : Status) (b : Bytes) : (s.reply ch st b).meas = s.meas := by cases ch <;> rfl
@[simp] theorem reply_boot (s : State) (ch : Chan) (st : Status) (b : Bytes) : (s.reply ch st b).boot = s.boot := by cases ch <;> rfl
@[simp] theorem reply_checker (s : State) (ch : Chan) (st : Status) (b : Bytes) : (s.reply ch st b).checker = s.checker := by cases ch <;> rfl
@[simp] theorem reply_pending (s : State) (ch : Chan) (st : Status) (b : Bytes) : (s.reply ch st b).pending = s.pending := by cases ch <;> rfl

/-! `refuse` -/

@[simp] theorem refuse_power (s : State) (ch : Chan) (st : Status) : (s.refuse ch st).power = s.power := by cases ch <;> rfl
@[simp] theorem refuse_rcv (s : State) (ch : Chan) (st : Status) : (s.refuse ch st).rcv = s.rcv := by cases ch <;> rfl
@[simp] theorem refuse_hold (s : State) (ch : Chan) (st : Status) : (s.refuse ch st).hold = s.hold := by cases ch <;> rfl
@[simp] theorem refuse_link (s : State) (ch : Chan) (st : Status) : (s.refuse ch st).link = s.link := by cases ch <;> rfl
@[simp] theorem refuse_settings (s : State) (ch : Chan) (st : Status) : (s.refuse ch st).settings = s.settings := by cases ch <;> rfl
@[simp] theorem refuse_engine (s : State) (ch : Chan) (st : Status) : (s.refuse ch st).engine = s.engine := by cases ch <;> rfl
@[simp] theorem refuse_ota (s : State) (ch : Chan) (st : Status) : (s.refuse ch st).ota = s.ota := by cases ch <;> rfl
@[simp] theorem refuse_store (s : State) (ch : Chan) (st : Status) : (s.refuse ch st).store = s.store := by cases ch <;> rfl
@[simp] theorem refuse_guard (s : State) (ch : Chan) (st : Status) : (s.refuse ch st).guard = s.guard := by cases ch <;> rfl
@[simp] theorem refuse_owner (s : State) (ch : Chan) (st : Status) : (s.refuse ch st).owner = s.owner := by cases ch <;> rfl
@[simp] theorem refuse_ctx (s : State) (ch : Chan) (st : Status) : (s.refuse ch st).ctx = s.ctx := by cases ch <;> rfl
@[simp] theorem refuse_meas (s : State) (ch : Chan) (st : Status) : (s.refuse ch st).meas = s.meas := by cases ch <;> rfl
@[simp] theorem refuse_boot (s : State) (ch : Chan) (st : Status) : (s.refuse ch st).boot = s.boot := by cases ch <;> rfl
@[simp] theorem refuse_checker (s : State) (ch : Chan) (st : Status) : (s.refuse ch st).checker = s.checker := by cases ch <;> rfl
@[simp] theorem refuse_pending (s : State) (ch : Chan) (st : Status) : (s.refuse ch st).pending = s.pending := by cases ch <;> rfl

/-! `raise` -/

@[simp] theorem raise_power (s : State) (ch : Chan) (e : Event) : (s.raise ch e).power = s.power := by cases ch <;> rfl
@[simp] theorem raise_rcv (s : State) (ch : Chan) (e : Event) : (s.raise ch e).rcv = s.rcv := by cases ch <;> rfl
@[simp] theorem raise_hold (s : State) (ch : Chan) (e : Event) : (s.raise ch e).hold = s.hold := by cases ch <;> rfl
@[simp] theorem raise_link (s : State) (ch : Chan) (e : Event) : (s.raise ch e).link = s.link := by cases ch <;> rfl
@[simp] theorem raise_settings (s : State) (ch : Chan) (e : Event) : (s.raise ch e).settings = s.settings := by cases ch <;> rfl
@[simp] theorem raise_engine (s : State) (ch : Chan) (e : Event) : (s.raise ch e).engine = s.engine := by cases ch <;> rfl
@[simp] theorem raise_ota (s : State) (ch : Chan) (e : Event) : (s.raise ch e).ota = s.ota := by cases ch <;> rfl
@[simp] theorem raise_store (s : State) (ch : Chan) (e : Event) : (s.raise ch e).store = s.store := by cases ch <;> rfl
@[simp] theorem raise_guard (s : State) (ch : Chan) (e : Event) : (s.raise ch e).guard = s.guard := by cases ch <;> rfl
@[simp] theorem raise_owner (s : State) (ch : Chan) (e : Event) : (s.raise ch e).owner = s.owner := by cases ch <;> rfl
@[simp] theorem raise_ctx (s : State) (ch : Chan) (e : Event) : (s.raise ch e).ctx = s.ctx := by cases ch <;> rfl
@[simp] theorem raise_meas (s : State) (ch : Chan) (e : Event) : (s.raise ch e).meas = s.meas := by cases ch <;> rfl
@[simp] theorem raise_boot (s : State) (ch : Chan) (e : Event) : (s.raise ch e).boot = s.boot := by cases ch <;> rfl
@[simp] theorem raise_checker (s : State) (ch : Chan) (e : Event) : (s.raise ch e).checker = s.checker := by cases ch <;> rfl
@[simp] theorem raise_pending (s : State) (ch : Chan) (e : Event) : (s.raise ch e).pending = s.pending := by cases ch <;> rfl

/-! `mapStore` -/

@[simp] theorem mapStore_power (s : State) (f : Store → Store) : (s.mapStore f).power = s.power := (rfl)
@[simp] theorem mapStore_rcv (s : State) (f : Store → Store) : (s.mapStore f).rcv = s.rcv := (rfl)
@[simp] theorem mapStore_hold (s : State) (f : Store → Store) : (s.mapStore f).hold = s.hold := (rfl)
@[simp] theorem mapStore_link (s : State) (f : Store → Store) : (s.mapStore f).link = s.link := (rfl)
@[simp] theorem mapStore_chS (s : State) (f : Store → Store) : (s.mapStore f).chS = s.chS := (rfl)
@[simp] theorem mapStore_chA (s : State) (f : Store → Store) : (s.mapStore f).chA = s.chA := (rfl)
@[simp] theorem mapStore_settings (s : State) (f : Store → Store) : (s.mapStore f).settings = s.settings := (rfl)
@[simp] theorem mapStore_engine (s : State) (f : Store → Store) : (s.mapStore f).engine = s.engine := (rfl)
@[simp] theorem mapStore_ota (s : State) (f : Store → Store) : (s.mapStore f).ota = s.ota := (rfl)
@[simp] theorem mapStore_guard (s : State) (f : Store → Store) : (s.mapStore f).guard = s.guard := (rfl)
@[simp] theorem mapStore_owner (s : State) (f : Store → Store) : (s.mapStore f).owner = s.owner := (rfl)
@[simp] theorem mapStore_ctx (s : State) (f : Store → Store) : (s.mapStore f).ctx = s.ctx := (rfl)
@[simp] theorem mapStore_meas (s : State) (f : Store → Store) : (s.mapStore f).meas = s.meas := (rfl)
@[simp] theorem mapStore_boot (s : State) (f : Store → Store) : (s.mapStore f).boot = s.boot := (rfl)
@[simp] theorem mapStore_checker (s : State) (f : Store → Store) : (s.mapStore f).checker = s.checker := (rfl)
@[simp] theorem mapStore_pending (s : State) (f : Store → Store) : (s.mapStore f).pending = s.pending := (rfl)
@[simp] theorem mapStore_store (s : State) (f : Store → Store) : (s.mapStore f).store = f s.store := (rfl)

/-! `mapBoot` -/

@[simp] theorem mapBoot_power (s : State) (f : Boot → Boot) : (s.mapBoot f).power = s.power := (rfl)
@[simp] theorem mapBoot_rcv (s : State) (f : Boot → Boot) : (s.mapBoot f).rcv = s.rcv := (rfl)
@[simp] theorem mapBoot_hold (s : State) (f : Boot → Boot) : (s.mapBoot f).hold = s.hold := (rfl)
@[simp] theorem mapBoot_link (s : State) (f : Boot → Boot) : (s.mapBoot f).link = s.link := (rfl)
@[simp] theorem mapBoot_chS (s : State) (f : Boot → Boot) : (s.mapBoot f).chS = s.chS := (rfl)
@[simp] theorem mapBoot_chA (s : State) (f : Boot → Boot) : (s.mapBoot f).chA = s.chA := (rfl)
@[simp] theorem mapBoot_settings (s : State) (f : Boot → Boot) : (s.mapBoot f).settings = s.settings := (rfl)
@[simp] theorem mapBoot_engine (s : State) (f : Boot → Boot) : (s.mapBoot f).engine = s.engine := (rfl)
@[simp] theorem mapBoot_ota (s : State) (f : Boot → Boot) : (s.mapBoot f).ota = s.ota := (rfl)
@[simp] theorem mapBoot_store (s : State) (f : Boot → Boot) : (s.mapBoot f).store = s.store := (rfl)
@[simp] theorem mapBoot_guard (s : State) (f : Boot → Boot) : (s.mapBoot f).guard = s.guard := (rfl)
@[simp] theorem mapBoot_owner (s : State) (f : Boot → Boot) : (s.mapBoot f).owner = s.owner := (rfl)
@[simp] theorem mapBoot_ctx (s : State) (f : Boot → Boot) : (s.mapBoot f).ctx = s.ctx := (rfl)
@[simp] theorem mapBoot_meas (s : State) (f : Boot → Boot) : (s.mapBoot f).meas = s.meas := (rfl)
@[simp] theorem mapBoot_checker (s : State) (f : Boot → Boot) : (s.mapBoot f).checker = s.checker := (rfl)
@[simp] theorem mapBoot_pending (s : State) (f : Boot → Boot) : (s.mapBoot f).pending = s.pending := (rfl)
@[simp] theorem mapBoot_boot (s : State) (f : Boot → Boot) : (s.mapBoot f).boot = f s.boot := (rfl)

/-! `mapChecker` -/

@[simp] theorem mapChecker_power (s : State) (f : Checker → Checker) : (s.mapChecker f).power = s.power := (rfl)
@[simp] theorem mapChecker_rcv (s : State) (f : Checker → Checker) : (s.mapChecker f).rcv = s.rcv := (rfl)
@[simp] theorem mapChecker_hold (s : State) (f : Checker → Checker) : (s.mapChecker f).hold = s.hold := (rfl)
@[simp] theorem mapChecker_link (s : State) (f : Checker → Checker) : (s.mapChecker f).link = s.link := (rfl)
@[simp] theorem mapChecker_chS (s : State) (f : Checker → Checker) : (s.mapChecker f).chS = s.chS := (rfl)
@[simp] theorem mapChecker_chA (s : State) (f : Checker → Checker) : (s.mapChecker f).chA = s.chA := (rfl)
@[simp] theorem mapChecker_settings (s : State) (f : Checker → Checker) : (s.mapChecker f).settings = s.settings := (rfl)
@[simp] theorem mapChecker_engine (s : State) (f : Checker → Checker) : (s.mapChecker f).engine = s.engine := (rfl)
@[simp] theorem mapChecker_ota (s : State) (f : Checker → Checker) : (s.mapChecker f).ota = s.ota := (rfl)
@[simp] theorem mapChecker_store (s : State) (f : Checker → Checker) : (s.mapChecker f).store = s.store := (rfl)
@[simp] theorem mapChecker_guard (s : State) (f : Checker → Checker) : (s.mapChecker f).guard = s.guard := (rfl)
@[simp] theorem mapChecker_owner (s : State) (f : Checker → Checker) : (s.mapChecker f).owner = s.owner := (rfl)
@[simp] theorem mapChecker_ctx (s : State) (f : Checker → Checker) : (s.mapChecker f).ctx = s.ctx := (rfl)
@[simp] theorem mapChecker_meas (s : State) (f : Checker → Checker) : (s.mapChecker f).meas = s.meas := (rfl)
@[simp] theorem mapChecker_boot (s : State) (f : Checker → Checker) : (s.mapChecker f).boot = s.boot := (rfl)
@[simp] theorem mapChecker_pending (s : State) (f : Checker → Checker) : (s.mapChecker f).pending = s.pending := (rfl)
@[simp] theorem mapChecker_checker (s : State) (f : Checker → Checker) : (s.mapChecker f).checker = f s.checker := (rfl)

/-! `mapOta` -/

@[simp] theorem mapOta_power (s : State) (f : Ota → Ota) : (s.mapOta f).power = s.power := (rfl)
@[simp] theorem mapOta_rcv (s : State) (f : Ota → Ota) : (s.mapOta f).rcv = s.rcv := (rfl)
@[simp] theorem mapOta_hold (s : State) (f : Ota → Ota) : (s.mapOta f).hold = s.hold := (rfl)
@[simp] theorem mapOta_link (s : State) (f : Ota → Ota) : (s.mapOta f).link = s.link := (rfl)
@[simp] theorem mapOta_chS (s : State) (f : Ota → Ota) : (s.mapOta f).chS = s.chS := (rfl)
@[simp] theorem mapOta_chA (s : State) (f : Ota → Ota) : (s.mapOta f).chA = s.chA := (rfl)
@[simp] theorem mapOta_settings (s : State) (f : Ota → Ota) : (s.mapOta f).settings = s.settings := (rfl)
@[simp] theorem mapOta_engine (s : State) (f : Ota → Ota) : (s.mapOta f).engine = s.engine := (rfl)
@[simp] theorem mapOta_store (s : State) (f : Ota → Ota) : (s.mapOta f).store = s.store := (rfl)
@[simp] theorem mapOta_guard (s : State) (f : Ota → Ota) : (s.mapOta f).guard = s.guard := (rfl)
@[simp] theorem mapOta_owner (s : State) (f : Ota → Ota) : (s.mapOta f).owner = s.owner := (rfl)
@[simp] theorem mapOta_ctx (s : State) (f : Ota → Ota) : (s.mapOta f).ctx = s.ctx := (rfl)
@[simp] theorem mapOta_meas (s : State) (f : Ota → Ota) : (s.mapOta f).meas = s.meas := (rfl)
@[simp] theorem mapOta_boot (s : State) (f : Ota → Ota) : (s.mapOta f).boot = s.boot := (rfl)
@[simp] theorem mapOta_checker (s : State) (f : Ota → Ota) : (s.mapOta f).checker = s.checker := (rfl)
@[simp] theorem mapOta_pending (s : State) (f : Ota → Ota) : (s.mapOta f).pending = s.pending := (rfl)
@[simp] theorem mapOta_ota (s : State) (f : Ota → Ota) : (s.mapOta f).ota = f s.ota := (rfl)

/-! `mapEngine` -/

@[simp] theorem mapEngine_power (s : State) (f : Engine → Engine) : (s.mapEngine f).power = s.power := (rfl)
@[simp] theorem mapEngine_rcv (s : State) (f : Engine → Engine) : (s.mapEngine f).rcv = s.rcv := (rfl)
@[simp] theorem mapEngine_hold (s : State) (f : Engine → Engine) : (s.mapEngine f).hold = s.hold := (rfl)
@[simp] theorem mapEngine_link (s : State) (f : Engine → Engine) : (s.mapEngine f).link = s.link := (rfl)
@[simp] theorem mapEngine_chS (s : State) (f : Engine → Engine) : (s.mapEngine f).chS = s.chS := (rfl)
@[simp] theorem mapEngine_chA (s : State) (f : Engine → Engine) : (s.mapEngine f).chA = s.chA := (rfl)
@[simp] theorem mapEngine_settings (s : State) (f : Engine → Engine) : (s.mapEngine f).settings = s.settings := (rfl)
@[simp] theorem mapEngine_ota (s : State) (f : Engine → Engine) : (s.mapEngine f).ota = s.ota := (rfl)
@[simp] theorem mapEngine_store (s : State) (f : Engine → Engine) : (s.mapEngine f).store = s.store := (rfl)
@[simp] theorem mapEngine_guard (s : State) (f : Engine → Engine) : (s.mapEngine f).guard = s.guard := (rfl)
@[simp] theorem mapEngine_owner (s : State) (f : Engine → Engine) : (s.mapEngine f).owner = s.owner := (rfl)
@[simp] theorem mapEngine_ctx (s : State) (f : Engine → Engine) : (s.mapEngine f).ctx = s.ctx := (rfl)
@[simp] theorem mapEngine_meas (s : State) (f : Engine → Engine) : (s.mapEngine f).meas = s.meas := (rfl)
@[simp] theorem mapEngine_boot (s : State) (f : Engine → Engine) : (s.mapEngine f).boot = s.boot := (rfl)
@[simp] theorem mapEngine_checker (s : State) (f : Engine → Engine) : (s.mapEngine f).checker = s.checker := (rfl)
@[simp] theorem mapEngine_pending (s : State) (f : Engine → Engine) : (s.mapEngine f).pending = s.pending := (rfl)
@[simp] theorem mapEngine_engine (s : State) (f : Engine → Engine) : (s.mapEngine f).engine = f s.engine := (rfl)

/-! `invalidate` -/

@[simp] theorem invalidate_power (s : State) (p : Ctx → Bool) : (s.invalidate p).power = s.power := (rfl)
@[simp] theorem invalidate_rcv (s : State) (p : Ctx → Bool) : (s.invalidate p).rcv = s.rcv := (rfl)
@[simp] theorem invalidate_hold (s : State) (p : Ctx → Bool) : (s.invalidate p).hold = s.hold := (rfl)
@[simp] theorem invalidate_link (s : State) (p : Ctx → Bool) : (s.invalidate p).link = s.link := (rfl)
@[simp] theorem invalidate_chS (s : State) (p : Ctx → Bool) : (s.invalidate p).chS = s.chS := (rfl)
@[simp] theorem invalidate_chA (s : State) (p : Ctx → Bool) : (s.invalidate p).chA = s.chA := (rfl)
@[simp] theorem invalidate_settings (s : State) (p : Ctx → Bool) : (s.invalidate p).settings = s.settings := (rfl)
@[simp] theorem invalidate_engine (s : State) (p : Ctx → Bool) : (s.invalidate p).engine = s.engine := (rfl)
@[simp] theorem invalidate_ota (s : State) (p : Ctx → Bool) : (s.invalidate p).ota = s.ota := (rfl)
@[simp] theorem invalidate_store (s : State) (p : Ctx → Bool) : (s.invalidate p).store = s.store := (rfl)
@[simp] theorem invalidate_guard (s : State) (p : Ctx → Bool) : (s.invalidate p).guard = s.guard := (rfl)
@[simp] theorem invalidate_owner (s : State) (p : Ctx → Bool) : (s.invalidate p).owner = s.owner := (rfl)
@[simp] theorem invalidate_meas (s : State) (p : Ctx → Bool) : (s.invalidate p).meas = s.meas := (rfl)
@[simp] theorem invalidate_boot (s : State) (p : Ctx → Bool) : (s.invalidate p).boot = s.boot := (rfl)
@[simp] theorem invalidate_checker (s : State) (p : Ctx → Bool) : (s.invalidate p).checker = s.checker := (rfl)
@[simp] theorem invalidate_pending (s : State) (p : Ctx → Bool) : (s.invalidate p).pending = s.pending := (rfl)
@[simp] theorem invalidate_ctx (s : State) (p : Ctx → Bool) : (s.invalidate p).ctx = s.ctx.invalidate p := (rfl)

/-! `fileClaim` -/

@[simp] theorem fileClaim_power (s : State) (who : Claimant) (c : Claim) : (s.fileClaim who c).power = s.power := (rfl)
@[simp] theorem fileClaim_rcv (s : State) (who : Claimant) (c : Claim) : (s.fileClaim who c).rcv = s.rcv := (rfl)
@[simp] theorem fileClaim_hold (s : State) (who : Claimant) (c : Claim) : (s.fileClaim who c).hold = s.hold := (rfl)
@[simp] theorem fileClaim_link (s : State) (who : Claimant) (c : Claim) : (s.fileClaim who c).link = s.link := (rfl)
@[simp] theorem fileClaim_chS (s : State) (who : Claimant) (c : Claim) : (s.fileClaim who c).chS = s.chS := (rfl)
@[simp] theorem fileClaim_chA (s : State) (who : Claimant) (c : Claim) : (s.fileClaim who c).chA = s.chA := (rfl)
@[simp] theorem fileClaim_settings (s : State) (who : Claimant) (c : Claim) : (s.fileClaim who c).settings = s.settings := (rfl)
@[simp] theorem fileClaim_ota (s : State) (who : Claimant) (c : Claim) : (s.fileClaim who c).ota = s.ota := (rfl)
@[simp] theorem fileClaim_store (s : State) (who : Claimant) (c : Claim) : (s.fileClaim who c).store = s.store := (rfl)
@[simp] theorem fileClaim_guard (s : State) (who : Claimant) (c : Claim) : (s.fileClaim who c).guard = s.guard := (rfl)
@[simp] theorem fileClaim_owner (s : State) (who : Claimant) (c : Claim) : (s.fileClaim who c).owner = s.owner := (rfl)
@[simp] theorem fileClaim_ctx (s : State) (who : Claimant) (c : Claim) : (s.fileClaim who c).ctx = s.ctx := (rfl)
@[simp] theorem fileClaim_meas (s : State) (who : Claimant) (c : Claim) : (s.fileClaim who c).meas = s.meas := (rfl)
@[simp] theorem fileClaim_boot (s : State) (who : Claimant) (c : Claim) : (s.fileClaim who c).boot = s.boot := (rfl)
@[simp] theorem fileClaim_checker (s : State) (who : Claimant) (c : Claim) : (s.fileClaim who c).checker = s.checker := (rfl)
@[simp] theorem fileClaim_pending (s : State) (who : Claimant) (c : Claim) : (s.fileClaim who c).pending = s.pending := (rfl)

/-! `fileJob` -/

@[simp] theorem fileJob_power (s : State) (j : WriteJob) : (s.fileJob j).power = s.power := (rfl)
@[simp] theorem fileJob_rcv (s : State) (j : WriteJob) : (s.fileJob j).rcv = s.rcv := (rfl)
@[simp] theorem fileJob_hold (s : State) (j : WriteJob) : (s.fileJob j).hold = s.hold := (rfl)
@[simp] theorem fileJob_link (s : State) (j : WriteJob) : (s.fileJob j).link = s.link := (rfl)
@[simp] theorem fileJob_chS (s : State) (j : WriteJob) : (s.fileJob j).chS = s.chS := (rfl)
@[simp] theorem fileJob_chA (s : State) (j : WriteJob) : (s.fileJob j).chA = s.chA := (rfl)
@[simp] theorem fileJob_settings (s : State) (j : WriteJob) : (s.fileJob j).settings = s.settings := (rfl)
@[simp] theorem fileJob_engine (s : State) (j : WriteJob) : (s.fileJob j).engine = s.engine := (rfl)
@[simp] theorem fileJob_ota (s : State) (j : WriteJob) : (s.fileJob j).ota = s.ota := (rfl)
@[simp] theorem fileJob_guard (s : State) (j : WriteJob) : (s.fileJob j).guard = s.guard := (rfl)
@[simp] theorem fileJob_owner (s : State) (j : WriteJob) : (s.fileJob j).owner = s.owner := (rfl)
@[simp] theorem fileJob_ctx (s : State) (j : WriteJob) : (s.fileJob j).ctx = s.ctx := (rfl)
@[simp] theorem fileJob_meas (s : State) (j : WriteJob) : (s.fileJob j).meas = s.meas := (rfl)
@[simp] theorem fileJob_boot (s : State) (j : WriteJob) : (s.fileJob j).boot = s.boot := (rfl)
@[simp] theorem fileJob_checker (s : State) (j : WriteJob) : (s.fileJob j).checker = s.checker := (rfl)
@[simp] theorem fileJob_pending (s : State) (j : WriteJob) : (s.fileJob j).pending = s.pending := (rfl)

/-! `fileOta` -/

@[simp] theorem fileOta_power (s : State) (o : OtaOp) : (s.fileOta o).power = s.power := (rfl)
@[simp] theorem fileOta_rcv (s : State) (o : OtaOp) : (s.fileOta o).rcv = s.rcv := (rfl)
@[simp] theorem fileOta_hold (s : State) (o : OtaOp) : (s.fileOta o).hold = s.hold := (rfl)
@[simp] theorem fileOta_link (s : State) (o : OtaOp) : (s.fileOta o).link = s.link := (rfl)
@[simp] theorem fileOta_chS (s : State) (o : OtaOp) : (s.fileOta o).chS = s.chS := (rfl)
@[simp] theorem fileOta_chA (s : State) (o : OtaOp) : (s.fileOta o).chA = s.chA := (rfl)
@[simp] theorem fileOta_settings (s : State) (o : OtaOp) : (s.fileOta o).settings = s.settings := (rfl)
@[simp] theorem fileOta_engine (s : State) (o : OtaOp) : (s.fileOta o).engine = s.engine := (rfl)
@[simp] theorem fileOta_store (s : State) (o : OtaOp) : (s.fileOta o).store = s.store := (rfl)
@[simp] theorem fileOta_guard (s : State) (o : OtaOp) : (s.fileOta o).guard = s.guard := (rfl)
@[simp] theorem fileOta_owner (s : State) (o : OtaOp) : (s.fileOta o).owner = s.owner := (rfl)
@[simp] theorem fileOta_ctx (s : State) (o : OtaOp) : (s.fileOta o).ctx = s.ctx := (rfl)
@[simp] theorem fileOta_meas (s : State) (o : OtaOp) : (s.fileOta o).meas = s.meas := (rfl)
@[simp] theorem fileOta_boot (s : State) (o : OtaOp) : (s.fileOta o).boot = s.boot := (rfl)
@[simp] theorem fileOta_checker (s : State) (o : OtaOp) : (s.fileOta o).checker = s.checker := (rfl)
@[simp] theorem fileOta_pending (s : State) (o : OtaOp) : (s.fileOta o).pending = s.pending := (rfl)

/-! `ask` -/

@[simp] theorem ask_power (s : State) (c : Change) : (s.ask c).power = s.power := (rfl)
@[simp] theorem ask_rcv (s : State) (c : Change) : (s.ask c).rcv = s.rcv := (rfl)
@[simp] theorem ask_hold (s : State) (c : Change) : (s.ask c).hold = s.hold := (rfl)
@[simp] theorem ask_link (s : State) (c : Change) : (s.ask c).link = s.link := (rfl)
@[simp] theorem ask_chS (s : State) (c : Change) : (s.ask c).chS = s.chS := (rfl)
@[simp] theorem ask_chA (s : State) (c : Change) : (s.ask c).chA = s.chA := (rfl)
@[simp] theorem ask_settings (s : State) (c : Change) : (s.ask c).settings = s.settings := (rfl)
@[simp] theorem ask_engine (s : State) (c : Change) : (s.ask c).engine = s.engine := (rfl)
@[simp] theorem ask_ota (s : State) (c : Change) : (s.ask c).ota = s.ota := (rfl)
@[simp] theorem ask_store (s : State) (c : Change) : (s.ask c).store = s.store := (rfl)
@[simp] theorem ask_guard (s : State) (c : Change) : (s.ask c).guard = s.guard := (rfl)
@[simp] theorem ask_owner (s : State) (c : Change) : (s.ask c).owner = s.owner := (rfl)
@[simp] theorem ask_ctx (s : State) (c : Change) : (s.ask c).ctx = s.ctx := (rfl)
@[simp] theorem ask_meas (s : State) (c : Change) : (s.ask c).meas = s.meas := (rfl)
@[simp] theorem ask_checker (s : State) (c : Change) : (s.ask c).checker = s.checker := (rfl)
@[simp] theorem ask_pending (s : State) (c : Change) : (s.ask c).pending = s.pending := (rfl)

/-! `setHold` -/

@[simp] theorem setHold_power (s : State) (x : HoldEntry) : (s.setHold x).power = s.power := (rfl)
@[simp] theorem setHold_rcv (s : State) (x : HoldEntry) : (s.setHold x).rcv = s.rcv := (rfl)
@[simp] theorem setHold_hold (s : State) (x : HoldEntry) : (s.setHold x).hold = s.hold := (rfl)
@[simp] theorem setHold_link (s : State) (x : HoldEntry) : (s.setHold x).link = s.link := (rfl)
@[simp] theorem setHold_chS (s : State) (x : HoldEntry) : (s.setHold x).chS = s.chS := (rfl)
@[simp] theorem setHold_chA (s : State) (x : HoldEntry) : (s.setHold x).chA = s.chA := (rfl)
@[simp] theorem setHold_settings (s : State) (x : HoldEntry) : (s.setHold x).settings = s.settings := (rfl)
@[simp] theorem setHold_engine (s : State) (x : HoldEntry) : (s.setHold x).engine = s.engine := (rfl)
@[simp] theorem setHold_ota (s : State) (x : HoldEntry) : (s.setHold x).ota = s.ota := (rfl)
@[simp] theorem setHold_store (s : State) (x : HoldEntry) : (s.setHold x).store = s.store := (rfl)
@[simp] theorem setHold_guard (s : State) (x : HoldEntry) : (s.setHold x).guard = s.guard := (rfl)
@[simp] theorem setHold_ctx (s : State) (x : HoldEntry) : (s.setHold x).ctx = s.ctx := (rfl)
@[simp] theorem setHold_meas (s : State) (x : HoldEntry) : (s.setHold x).meas = s.meas := (rfl)
@[simp] theorem setHold_boot (s : State) (x : HoldEntry) : (s.setHold x).boot = s.boot := (rfl)
@[simp] theorem setHold_checker (s : State) (x : HoldEntry) : (s.setHold x).checker = s.checker := (rfl)
@[simp] theorem setHold_pending (s : State) (x : HoldEntry) : (s.setHold x).pending = s.pending := (rfl)

/-! `setLine` -/

@[simp] theorem setLine_power (s : State) (l : Line) : (s.setLine l).power = s.power := (rfl)
@[simp] theorem setLine_rcv (s : State) (l : Line) : (s.setLine l).rcv = s.rcv := (rfl)
@[simp] theorem setLine_hold (s : State) (l : Line) : (s.setLine l).hold = s.hold := (rfl)
@[simp] theorem setLine_chS (s : State) (l : Line) : (s.setLine l).chS = s.chS := (rfl)
@[simp] theorem setLine_chA (s : State) (l : Line) : (s.setLine l).chA = s.chA := (rfl)
@[simp] theorem setLine_settings (s : State) (l : Line) : (s.setLine l).settings = s.settings := (rfl)
@[simp] theorem setLine_engine (s : State) (l : Line) : (s.setLine l).engine = s.engine := (rfl)
@[simp] theorem setLine_ota (s : State) (l : Line) : (s.setLine l).ota = s.ota := (rfl)
@[simp] theorem setLine_store (s : State) (l : Line) : (s.setLine l).store = s.store := (rfl)
@[simp] theorem setLine_guard (s : State) (l : Line) : (s.setLine l).guard = s.guard := (rfl)
@[simp] theorem setLine_owner (s : State) (l : Line) : (s.setLine l).owner = s.owner := (rfl)
@[simp] theorem setLine_ctx (s : State) (l : Line) : (s.setLine l).ctx = s.ctx := (rfl)
@[simp] theorem setLine_meas (s : State) (l : Line) : (s.setLine l).meas = s.meas := (rfl)
@[simp] theorem setLine_boot (s : State) (l : Line) : (s.setLine l).boot = s.boot := (rfl)
@[simp] theorem setLine_checker (s : State) (l : Line) : (s.setLine l).checker = s.checker := (rfl)
@[simp] theorem setLine_pending (s : State) (l : Line) : (s.setLine l).pending = s.pending := (rfl)

/-! `setAck` -/

@[simp] theorem setAck_power (s : State) (a : Bool) : (s.setAck a).power = s.power := (rfl)
@[simp] theorem setAck_rcv (s : State) (a : Bool) : (s.setAck a).rcv = s.rcv := (rfl)
@[simp] theorem setAck_hold (s : State) (a : Bool) : (s.setAck a).hold = s.hold := (rfl)
@[simp] theorem setAck_chS (s : State) (a : Bool) : (s.setAck a).chS = s.chS := (rfl)
@[simp] theorem setAck_chA (s : State) (a : Bool) : (s.setAck a).chA = s.chA := (rfl)
@[simp] theorem setAck_settings (s : State) (a : Bool) : (s.setAck a).settings = s.settings := (rfl)
@[simp] theorem setAck_engine (s : State) (a : Bool) : (s.setAck a).engine = s.engine := (rfl)
@[simp] theorem setAck_ota (s : State) (a : Bool) : (s.setAck a).ota = s.ota := (rfl)
@[simp] theorem setAck_store (s : State) (a : Bool) : (s.setAck a).store = s.store := (rfl)
@[simp] theorem setAck_guard (s : State) (a : Bool) : (s.setAck a).guard = s.guard := (rfl)
@[simp] theorem setAck_owner (s : State) (a : Bool) : (s.setAck a).owner = s.owner := (rfl)
@[simp] theorem setAck_ctx (s : State) (a : Bool) : (s.setAck a).ctx = s.ctx := (rfl)
@[simp] theorem setAck_meas (s : State) (a : Bool) : (s.setAck a).meas = s.meas := (rfl)
@[simp] theorem setAck_boot (s : State) (a : Bool) : (s.setAck a).boot = s.boot := (rfl)
@[simp] theorem setAck_checker (s : State) (a : Bool) : (s.setAck a).checker = s.checker := (rfl)
@[simp] theorem setAck_pending (s : State) (a : Bool) : (s.setAck a).pending = s.pending := (rfl)

/-! `setOut` -/

@[simp] theorem setOut_power (s : State) (b : Bytes) : (s.setOut b).power = s.power := (rfl)
@[simp] theorem setOut_rcv (s : State) (b : Bytes) : (s.setOut b).rcv = s.rcv := (rfl)
@[simp] theorem setOut_hold (s : State) (b : Bytes) : (s.setOut b).hold = s.hold := (rfl)
@[simp] theorem setOut_chS (s : State) (b : Bytes) : (s.setOut b).chS = s.chS := (rfl)
@[simp] theorem setOut_chA (s : State) (b : Bytes) : (s.setOut b).chA = s.chA := (rfl)
@[simp] theorem setOut_settings (s : State) (b : Bytes) : (s.setOut b).settings = s.settings := (rfl)
@[simp] theorem setOut_engine (s : State) (b : Bytes) : (s.setOut b).engine = s.engine := (rfl)
@[simp] theorem setOut_ota (s : State) (b : Bytes) : (s.setOut b).ota = s.ota := (rfl)
@[simp] theorem setOut_store (s : State) (b : Bytes) : (s.setOut b).store = s.store := (rfl)
@[simp] theorem setOut_guard (s : State) (b : Bytes) : (s.setOut b).guard = s.guard := (rfl)
@[simp] theorem setOut_owner (s : State) (b : Bytes) : (s.setOut b).owner = s.owner := (rfl)
@[simp] theorem setOut_ctx (s : State) (b : Bytes) : (s.setOut b).ctx = s.ctx := (rfl)
@[simp] theorem setOut_meas (s : State) (b : Bytes) : (s.setOut b).meas = s.meas := (rfl)
@[simp] theorem setOut_boot (s : State) (b : Bytes) : (s.setOut b).boot = s.boot := (rfl)
@[simp] theorem setOut_checker (s : State) (b : Bytes) : (s.setOut b).checker = s.checker := (rfl)
@[simp] theorem setOut_pending (s : State) (b : Bytes) : (s.setOut b).pending = s.pending := (rfl)

/-! `withPending` -/

@[simp] theorem withPending_power (s : State) (q : List Instr) : (s.withPending q).power = s.power := (rfl)
@[simp] theorem withPending_rcv (s : State) (q : List Instr) : (s.withPending q).rcv = s.rcv := (rfl)
@[simp] theorem withPending_hold (s : State) (q : List Instr) : (s.withPending q).hold = s.hold := (rfl)
@[simp] theorem withPending_link (s : State) (q : List Instr) : (s.withPending q).link = s.link := (rfl)
@[simp] theorem withPending_chS (s : State) (q : List Instr) : (s.withPending q).chS = s.chS := (rfl)
@[simp] theorem withPending_chA (s : State) (q : List Instr) : (s.withPending q).chA = s.chA := (rfl)
@[simp] theorem withPending_settings (s : State) (q : List Instr) : (s.withPending q).settings = s.settings := (rfl)
@[simp] theorem withPending_engine (s : State) (q : List Instr) : (s.withPending q).engine = s.engine := (rfl)
@[simp] theorem withPending_ota (s : State) (q : List Instr) : (s.withPending q).ota = s.ota := (rfl)
@[simp] theorem withPending_store (s : State) (q : List Instr) : (s.withPending q).store = s.store := (rfl)
@[simp] theorem withPending_guard (s : State) (q : List Instr) : (s.withPending q).guard = s.guard := (rfl)
@[simp] theorem withPending_owner (s : State) (q : List Instr) : (s.withPending q).owner = s.owner := (rfl)
@[simp] theorem withPending_ctx (s : State) (q : List Instr) : (s.withPending q).ctx = s.ctx := (rfl)
@[simp] theorem withPending_meas (s : State) (q : List Instr) : (s.withPending q).meas = s.meas := (rfl)
@[simp] theorem withPending_boot (s : State) (q : List Instr) : (s.withPending q).boot = s.boot := (rfl)
@[simp] theorem withPending_checker (s : State) (q : List Instr) : (s.withPending q).checker = s.checker := (rfl)

/-! `useGrant` -/

@[simp] theorem useGrant_power (s : State) : (s.useGrant).power = s.power := by unfold State.useGrant; split <;> rfl
@[simp] theorem useGrant_rcv (s : State) : (s.useGrant).rcv = s.rcv := by unfold State.useGrant; split <;> rfl
@[simp] theorem useGrant_hold (s : State) : (s.useGrant).hold = s.hold := by unfold State.useGrant; split <;> rfl
@[simp] theorem useGrant_link (s : State) : (s.useGrant).link = s.link := by unfold State.useGrant; split <;> rfl
@[simp] theorem useGrant_chS (s : State) : (s.useGrant).chS = s.chS := by unfold State.useGrant; split <;> rfl
@[simp] theorem useGrant_chA (s : State) : (s.useGrant).chA = s.chA := by unfold State.useGrant; split <;> rfl
@[simp] theorem useGrant_settings (s : State) : (s.useGrant).settings = s.settings := by unfold State.useGrant; split <;> rfl
@[simp] theorem useGrant_engine (s : State) : (s.useGrant).engine = s.engine := by unfold State.useGrant; split <;> rfl
@[simp] theorem useGrant_ota (s : State) : (s.useGrant).ota = s.ota := by unfold State.useGrant; split <;> rfl
@[simp] theorem useGrant_store (s : State) : (s.useGrant).store = s.store := by unfold State.useGrant; split <;> rfl
@[simp] theorem useGrant_guard (s : State) : (s.useGrant).guard = s.guard := by unfold State.useGrant; split <;> rfl
@[simp] theorem useGrant_ctx (s : State) : (s.useGrant).ctx = s.ctx := by unfold State.useGrant; split <;> rfl
@[simp] theorem useGrant_meas (s : State) : (s.useGrant).meas = s.meas := by unfold State.useGrant; split <;> rfl
@[simp] theorem useGrant_boot (s : State) : (s.useGrant).boot = s.boot := by unfold State.useGrant; split <;> rfl
@[simp] theorem useGrant_checker (s : State) : (s.useGrant).checker = s.checker := by unfold State.useGrant; split <;> rfl
@[simp] theorem useGrant_pending (s : State) : (s.useGrant).pending = s.pending := by unfold State.useGrant; split <;> rfl

/-! The channels after `setChan`. -/

@[simp] theorem setChan_chan (s : State) (ch : Chan) (c : Channel) : (s.setChan ch c).chan ch = c := by cases ch <;> rfl

theorem setChan_chan_ne (s : State) (ch d : Chan) (c : Channel) (h : d ≠ ch) : (s.setChan ch c).chan d = s.chan d := by
  cases ch <;> cases d <;> first | rfl | exact absurd rfl h

@[simp] theorem setChan_setChan (s : State) (ch : Chan) (c d : Channel) : (s.setChan ch c).setChan ch d = s.setChan ch d := by
  cases ch <;> rfl

@[simp] theorem setChan_self (s : State) (ch : Chan) : s.setChan ch (s.chan ch) = s := by cases ch <;> rfl

theorem reply_eq (s : State) (ch : Chan) (st : Status) (b : Bytes) :
    s.reply ch st b =
      s.setChan ch { s.chan ch with state := .replyReady, work := .none, reply := some { status := st, body := b } } := rfl

@[simp] theorem reply_chan (s : State) (ch : Chan) (st : Status) (b : Bytes) :
    (s.reply ch st b).chan ch =
      { s.chan ch with state := .replyReady, work := .none, reply := some { status := st, body := b } } :=
  setChan_chan s ch _

@[simp] theorem setWork_reply (s : State) (ch : Chan) (w : Work) (st : Status) (b : Bytes) :
    (s.setWork ch w).reply ch st b = s.reply ch st b := by cases ch <;> rfl

@[simp] theorem useGrant_useGrant (s : State) : s.useGrant.useGrant = s.useGrant := by
  cases s with
  | mk power rcv hold link chS chA settings engine ota store guard owner ctx meas boot checker pending =>
    cases owner with
    | mk uptime table grant idleDue => cases grant <;> rfl

end Sys2Proof.Machine.State
end

