-- ==== Sys2Proof/Laws/Fixed.lean ====
section
/-! SUPPORT. What no reply, no filing and no start of waiting work ever changes: power, reset lines, link, guard, lanes and log,
grant sets, one-time cells, the store's cells and its slot map, uptime and the queue. One lemma per shared operation. -/
namespace Sys2Proof.Machine

/-- The part of the state that the operations below leave alone. -/
structure Fixed where
  power   : Power
  rcv     : Bool
  hold    : Bool
  link    : Link
  guard   : Guard
  meas    : Meas
  grantsS : DomSet
  grantsA : DomSet
  cells   : Cells
  mem     : List Host.Cell
  map     : List SlotEntry
  uptime  : Nat
  pending : List Instr

/-- The fixed part of a state. -/
def State.fixed (s : State) : Fixed :=
  { power := s.power, rcv := s.rcv, hold := s.hold, link := s.link, guard := s.guard, meas := s.meas,
    grantsS := s.chS.grants, grantsA := s.chA.grants, cells := s.ota.cells, mem := s.store.mem, map := s.store.map,
    uptime := s.owner.uptime, pending := s.pending }

/-! ### Stores -/

@[simp] theorem Store.setBlock_mem (st : Store) (b : Nat) (x : BlockState) : (st.setBlock b x).mem = st.mem := by cases st; rfl
@[simp] theorem Store.setBlock_map (st : Store) (b : Nat) (x : BlockState) : (st.setBlock b x).map = st.map := by cases st; rfl
@[simp] theorem Store.markUsed_mem (st : Store) (p : Nat) : (st.markUsed p).mem = st.mem := by
  unfold Store.markUsed; split <;> rfl
@[simp] theorem Store.markUsed_map (st : Store) (p : Nat) : (st.markUsed p).map = st.map := by
  unfold Store.markUsed; split <;> rfl
@[simp] theorem Store.clearBlock_mem (st : Store) (b : Nat) : (st.clearBlock b).mem = st.mem := by cases st; rfl
@[simp] theorem Store.clearBlock_map (st : Store) (b : Nat) : (st.clearBlock b).map = st.map := by cases st; rfl
@[simp] theorem Store.fillIfFull_mem (st : Store) (b : Nat) : (st.fillIfFull b).mem = st.mem := by
  unfold Store.fillIfFull; split <;> rfl
@[simp] theorem Store.fillIfFull_map (st : Store) (b : Nat) : (st.fillIfFull b).map = st.map := by
  unfold Store.fillIfFull; split <;> rfl
@[simp] theorem Store.closeCompaction_mem (st : Store) (c : Compaction) : (st.closeCompaction c).mem = st.mem := by
  unfold Store.closeCompaction; cases st.firstBlock .openBlock <;> rfl
@[simp] theorem Store.closeCompaction_map (st : Store) (c : Compaction) : (st.closeCompaction c).map = st.map := by
  unfold Store.closeCompaction; cases st.firstBlock .openBlock <;> rfl
@[simp] theorem Ota.judge_cells (o : Ota) : o.judge.cells = o.cells := by cases o; rfl
@[simp] theorem Ota.setValue_cells (o : Ota) (k : Counter) (v : Nat) : (o.setValue k v).cells = o.cells := by cases k <;> rfl

@[simp] theorem Channel.setFlag_grants (c : Channel) (i : Nat) (v : Bool) : (c.setFlag i v).grants = c.grants := by
  unfold Channel.setFlag; split <;> rfl

@[simp] theorem Channel.raise_grants (c : Channel) (ch : Chan) (e : Event) : (c.raise ch e).grants = c.grants := by
  unfold Channel.raise; split
  · rfl
  · split <;> simp

namespace State

/-! ### Plain updates -/

theorem setChan_fixed (s : State) (ch : Chan) (c : Channel) (h : c.grants = (s.chan ch).grants) :
    (s.setChan ch c).fixed = s.fixed := by
  cases ch <;> simp_all [fixed, setChan, chan]

@[simp] theorem setWork_fixed (s : State) (ch : Chan) (w : Work) : (s.setWork ch w).fixed = s.fixed := setChan_fixed s ch _ rfl
@[simp] theorem reply_fixed (s : State) (ch : Chan) (st : Status) (b : Bytes) : (s.reply ch st b).fixed = s.fixed :=
  setChan_fixed s ch _ rfl
@[simp] theorem refuse_fixed (s : State) (ch : Chan) (st : Status) : (s.refuse ch st).fixed = s.fixed := reply_fixed s ch st []
@[simp] theorem raise_fixed (s : State) (ch : Chan) (e : Event) : (s.raise ch e).fixed = s.fixed :=
  setChan_fixed s ch _ (by simp)

@[simp] theorem mapStore_fixed (s : State) (f : Store → Store) (hm : (f s.store).mem = s.store.mem)
    (hp : (f s.store).map = s.store.map) : (s.mapStore f).fixed = s.fixed := by
  simp [fixed, hm, hp]

@[simp] theorem mapOta_fixed (s : State) (f : Ota → Ota) (h : (f s.ota).cells = s.ota.cells) :
    (s.mapOta f).fixed = s.fixed := by
  simp [fixed, h]

@[simp] theorem mapBoot_fixed (s : State) (f : Boot → Boot) : (s.mapBoot f).fixed = s.fixed := rfl
@[simp] theorem mapChecker_fixed (s : State) (f : Checker → Checker) : (s.mapChecker f).fixed = s.fixed := rfl
@[simp] theorem mapEngine_fixed (s : State) (f : Engine → Engine) : (s.mapEngine f).fixed = s.fixed := rfl
@[simp] theorem invalidate_fixed (s : State) (p : Ctx → Bool) : (s.invalidate p).fixed = s.fixed := rfl
@[simp] theorem fileClaim_fixed (s : State) (who : Claimant) (c : Claim) : (s.fileClaim who c).fixed = s.fixed := rfl
@[simp] theorem fileJob_fixed (s : State) (j : WriteJob) : (s.fileJob j).fixed = s.fixed := rfl
@[simp] theorem fileOta_fixed (s : State) (o : OtaOp) : (s.fileOta o).fixed = s.fixed := rfl
@[simp] theorem ask_fixed (s : State) (c : Change) : (s.ask c).fixed = s.fixed := rfl
@[simp] theorem setHold_fixed (s : State) (x : HoldEntry) : (s.setHold x).fixed = s.fixed := rfl
@[simp] theorem withCtx_fixed (s : State) (t : CtxTable) : State.fixed { s with ctx := t } = s.fixed := rfl
@[simp] theorem withSettings_fixed (s : State) (x : Settings) : State.fixed { s with settings := x } = s.fixed := rfl

@[simp] theorem withOwner_fixed (s : State) (o : Owner) (h : o.uptime = s.owner.uptime) :
    State.fixed { s with owner := o } = s.fixed := by
  simp [fixed, h]

@[simp] theorem useGrant_fixed (s : State) : s.useGrant.fixed = s.fixed := by
  unfold useGrant; split <;> rfl

@[simp] theorem judgeWrite_fixed (s : State) (ch : Chan) (d : Option Domain) : (s.judgeWrite ch d).2.fixed = s.fixed := by
  unfold judgeWrite; repeat' split
  all_goals simp

@[simp] theorem judgeVerifier_fixed (s : State) : s.judgeVerifier.2.fixed = s.fixed := by
  unfold judgeVerifier; repeat' split
  all_goals simp

@[simp] theorem endGrant_fixed (s : State) : s.endGrant.fixed = s.fixed := by
  unfold endGrant; split <;> simp

/-! ### The boot controller and the image checker -/

@[simp] theorem startCheck_fixed (s : State) (b : Bank) (f : Bool) : (s.startCheck b f).fixed = s.fixed := rfl
@[simp] theorem enterFailed_fixed (s : State) : s.enterFailed.fixed = s.fixed := by simp [enterFailed]

@[simp] theorem nextBank_fixed (s : State) (b : Bank) (f : Bool) : (s.nextBank b f).fixed = s.fixed := by
  unfold nextBank; repeat' split
  all_goals simp

@[simp] theorem firstTry_fixed (s : State) : s.firstTry.fixed = s.fixed := by
  unfold firstTry; dsimp only; repeat' split
  all_goals simp

@[simp] theorem bankChoice_fixed (s : State) : s.bankChoice.fixed = s.fixed := by
  unfold bankChoice; dsimp only; split <;> simp

@[simp] theorem rootsChanged_fixed (s : State) : s.rootsChanged.fixed = s.fixed := by
  unfold rootsChanged; split <;> simp

@[simp] theorem bootCheckFailed_fixed (s : State) (r : CheckReason) : (s.bootCheckFailed r).fixed = s.fixed := by
  unfold bootCheckFailed; dsimp only; split <;> simp

@[simp] theorem afterRecord_fixed (s : State) (b : Bank) (f : Bool) : (s.afterRecord b f).fixed = s.fixed := by
  unfold afterRecord; split <;> simp

@[simp] theorem bootPassed_fixed (s : State) (b : Bank) (e : Epochs) (d : Bytes) : (s.bootPassed b e d).fixed = s.fixed := by
  unfold bootPassed; dsimp only; split <;> simp

@[simp] theorem factoryAdvanced_fixed (s : State) (o : AdvOut) : (s.factoryAdvanced o).fixed = s.fixed := by
  unfold factoryAdvanced; dsimp only; repeat' split
  all_goals simp

@[simp] theorem endAdmission_fixed (s : State) (a : AdmState) (r : Option AdmReason) (x : Option AdmResult) :
    (s.endAdmission a r x).fixed = s.fixed := by
  simp [endAdmission]

@[simp] theorem failAdmission_fixed (s : State) (r : AdmReason) : (s.failAdmission r).fixed = s.fixed := endAdmission_fixed s _ _ _

@[simp] theorem checkFailed_fixed (s : State) (r : CheckReason) : (s.checkFailed r).fixed = s.fixed := by
  unfold checkFailed; split <;> simp

@[simp] theorem finishConfirm_fixed (s : State) (st : Status) : (s.finishConfirm st).fixed = s.fixed := by
  unfold finishConfirm; dsimp only; repeat' split
  all_goals simp

@[simp] theorem judgeOther_fixed (s : State) (c : Confirm) : (s.judgeOther c).fixed = s.fixed := by
  unfold judgeOther; dsimp only; split <;> simp

@[simp] theorem confirmAdvanced_fixed (s : State) (o : AdvOut) : (s.confirmAdvanced o).fixed = s.fixed := by
  unfold confirmAdvanced; dsimp only; repeat' split
  all_goals simp

@[simp] theorem changeEnded_fixed (s : State) (a : Asked) (st : Status) : (s.changeEnded a st).fixed = s.fixed := by
  unfold changeEnded; dsimp only; repeat' split
  all_goals simp

@[simp] theorem startRead_fixed (s : State) (r : FlashRead) : (s.startRead r).fixed = s.fixed := rfl
@[simp] theorem readChunk_fixed (s : State) : s.readChunk.fixed = s.fixed := rfl
@[simp] theorem startSegment_fixed (s : State) : s.startSegment.fixed = s.fixed := rfl

@[simp] theorem extendNext_fixed (s : State) : s.extendNext.fixed = s.fixed := by
  unfold extendNext; dsimp only; split <;> simp

@[simp] theorem allHashed_fixed (s : State) : s.allHashed.fixed = s.fixed := by
  unfold allHashed; split <;> simp

/-! ### The store controller -/

@[simp] theorem recordFault_fixed (s : State) (k : FaultKind) (b : Option Nat) : (s.recordFault k b).fixed = s.fixed := by
  simp [recordFault]

@[simp] theorem chooseSpare_fixed (s : State) (b : Nat) : (s.chooseSpare b).fixed = s.fixed := by
  unfold chooseSpare; split <;> simp

@[simp] theorem retireBlock_fixed (s : State) (b : Nat) : (s.retireBlock b).fixed = s.fixed := by simp [retireBlock]

@[simp] theorem retireEnded_fixed (s : State) (b : Nat) (ok : Bool) : (s.retireEnded b ok).fixed = s.fixed := by
  unfold retireEnded; dsimp only; split <;> simp

@[simp] theorem replyJob_fixed (s : State) (ch : Chan) (o : JobEnd) (x : Bytes) : (s.replyJob ch o x).fixed = s.fixed := by
  unfold replyJob; split <;> simp

@[simp] theorem resetReply_fixed (s : State) (st : Status) (d l : Nat) (o : Status) : (s.resetReply st d l o).fixed = s.fixed := by
  simp [resetReply]

@[simp] theorem resetWalkFrom_fixed (s : State) (n d l : Nat) (o : Status) : (s.resetWalkFrom n d l o).fixed = s.fixed := by
  unfold resetWalkFrom; split <;> simp

@[simp] theorem resetJobEnded_fixed (s : State) (o : JobEnd) : (s.resetJobEnded o).fixed = s.fixed := by
  unfold resetJobEnded; repeat' split
  all_goals simp

@[simp] theorem noteEntry_fixed (s : State) (n : Nat) : (s.noteEntry n).fixed = s.fixed := by
  unfold noteEntry; split <;> simp

@[simp] theorem prechargeEnded_fixed (s : State) (j : WriteJob) (o : JobEnd) : (s.prechargeEnded j o).fixed = s.fixed := by
  unfold prechargeEnded; dsimp only; repeat' split
  all_goals simp

@[simp] theorem matchEnded_fixed (s : State) (j : WriteJob) (o : JobEnd) : (s.matchEnded j o).fixed = s.fixed := by
  unfold matchEnded; dsimp only; repeat' split
  all_goals simp

@[simp] theorem setVerifierEnded_fixed (s : State) (j : WriteJob) (o : JobEnd) : (s.setVerifierEnded j o).fixed = s.fixed := by
  unfold setVerifierEnded; dsimp only; repeat' split
  all_goals simp

@[simp] theorem settingEnded_fixed (s : State) (n v : Nat) (o : JobEnd) : (s.settingEnded n v o).fixed = s.fixed := by
  unfold settingEnded; split <;> simp

@[simp] theorem generateEnded_fixed (s : State) (j : WriteJob) (o : JobEnd) : (s.generateEnded j o).fixed = s.fixed := by
  unfold generateEnded; repeat' split
  all_goals simp

@[simp] theorem bootJobEnded_fixed (s : State) (o : JobEnd) : (s.bootJobEnded o).fixed = s.fixed := by
  unfold bootJobEnded; split <;> simp

@[simp] theorem deliver_fixed (s : State) (j : WriteJob) (o : JobEnd) : (s.deliver j o).fixed = s.fixed := by
  unfold deliver; repeat' split
  all_goals simp

@[simp] theorem endJob_fixed (s : State) (o : JobEnd) : (s.endJob o).fixed = s.fixed := by
  unfold endJob; split <;> simp

@[simp] theorem judgeOver_fixed (s : State) (ch : Chan) (n : Nat) : (s.judgeOver ch n).2.fixed = s.fixed := by
  unfold judgeOver; split <;> simp

@[simp] theorem judgeTakeWrite_fixed (s : State) (ch : Chan) (j : WriteJob) : (s.judgeTakeWrite ch j).2.fixed = s.fixed := by
  unfold judgeTakeWrite; dsimp only; repeat' split
  all_goals simp

@[simp] theorem judgeTakeDelete_fixed (s : State) (ch : Chan) (j : WriteJob) : (s.judgeTakeDelete ch j).2.fixed = s.fixed := by
  unfold judgeTakeDelete; dsimp only; split <;> simp

@[simp] theorem judgeTakeVerifier_fixed (s : State) (j : WriteJob) : (s.judgeTakeVerifier j).2.fixed = s.fixed := by
  unfold judgeTakeVerifier; dsimp only; repeat' split
  all_goals simp

@[simp] theorem judgeTake_fixed (s : State) (j : WriteJob) : (s.judgeTake j).2.fixed = s.fixed := by
  unfold judgeTake; split <;> simp

@[simp] theorem takeJob_fixed (s : State) (j : WriteJob) (r : List WriteJob) : (s.takeJob j r).fixed = s.fixed := by
  unfold takeJob; dsimp only; split
  · simp
  · split
    all_goals
      rename_i h
      have := congrArg (fun x => x.2.fixed) h
      simp at this
      simp [← this]

@[simp] theorem abandonCompaction_fixed (s : State) (c : Compaction) : (s.abandonCompaction c).fixed = s.fixed := by
  simp [abandonCompaction]

@[simp] theorem copyNext_fixed (s : State) : s.copyNext.fixed = s.fixed := by
  unfold copyNext; repeat' split
  all_goals simp

@[simp] theorem startCompaction_fixed (s : State) (v t : Nat) : (s.startCompaction v t).fixed = s.fixed := by
  simp [startCompaction]

@[simp] theorem startProgram_fixed (s : State) (j : WriteJob) (p : Nat) : (s.startProgram j p).fixed = s.fixed := by
  simp [startProgram]

@[simp] theorem seekPage_fixed (s : State) (j : WriteJob) : (s.seekPage j).fixed = s.fixed := by
  unfold seekPage; repeat' split
  all_goals simp

@[simp] theorem verifierGone_fixed (s : State) (n : Nat) : (s.verifierGone n).fixed = s.fixed := by
  unfold verifierGone; dsimp only; split <;> simp

/-! ### The one-time area's controller -/

@[simp] theorem rejudge_fixed (s : State) : s.rejudge.fixed = s.fixed := by
  unfold rejudge; dsimp only; split <;> simp

@[simp] theorem identityEnded_fixed (s : State) (p : Nat) : (s.identityEnded p).fixed = s.fixed := by simp [identityEnded]

@[simp] theorem keysEnded_fixed (s : State) (x : Bytes) (p : Nat) : (s.keysEnded x p).fixed = s.fixed := by
  unfold keysEnded; dsimp only; split <;> simp

@[simp] theorem rootEnded_fixed (s : State) (e : Nat) (d : Bytes) (p : Nat) : (s.rootEnded e d p).fixed = s.fixed := by
  unfold rootEnded; dsimp only; split <;> simp

@[simp] theorem sealEnded_fixed (s : State) (x : Option Nat) : (s.sealEnded x).fixed = s.fixed := by
  unfold sealEnded; dsimp only; split <;> simp

@[simp] theorem advanceEnded_fixed (s : State) (k : Counter) (f : AdvanceFor) (st : Status) :
    (s.advanceEnded k f st).fixed = s.fixed := by
  unfold advanceEnded; dsimp only; repeat' split
  all_goals simp

@[simp] theorem bytesEnded_fixed (s : State) (o : OtaOp) (p : Nat) : (s.bytesEnded o p).fixed = s.fixed := by
  unfold bytesEnded; dsimp only; split <;> simp

@[simp] theorem otaAt_fixed (s : State) (o : OtaOp) (p : Nat) : (s.otaAt o p).fixed = s.fixed := by simp [otaAt]

@[simp] theorem takeOta_fixed (s : State) (o : OtaOp) : (s.takeOta o).fixed = s.fixed := by
  unfold takeOta; repeat' split
  all_goals simp

/-! ### The engine -/

@[simp] theorem noteUse_fixed (s : State) (h : Handle) (c : Ctx) : (s.noteUse h c).fixed = s.fixed := by
  unfold noteUse; split
  · exact (withCtx_fixed _ _).trans (useGrant_fixed s)
  · rfl

@[simp] theorem gather_fixed (s : State) (ch : Chan) (c : Claim) : (s.gather ch c).2.fixed = s.fixed := by
  unfold gather; dsimp only; repeat' split
  all_goals simp

theorem grantEngine_fixed {s t : State} (h : s.grantEngine = some t) : t.fixed = s.fixed := by
  unfold grantEngine at h; dsimp only at h
  repeat' split at h
  all_goals try contradiction
  all_goals
    rename_i hg
    have := congrArg (fun x => x.2.fixed) hg
    simp at this h
    subst h
    simp [← this]

/-! ### One turn, and all of them -/

theorem nextChange_fixed {s t : State} (h : s.nextChange = some t) : t.fixed = s.fixed := by
  unfold nextChange at h; split at h
  · injection h with h; subst h; rfl
  · contradiction

@[simp] theorem fileChange_fixed (s : State) : s.fileChange.fixed = s.fixed := by
  unfold fileChange; dsimp only; repeat' split
  all_goals first | rfl | simp

theorem fileWaiter_fixed {s t : State} (h : s.fileWaiter = some t) : t.fixed = s.fixed := by
  unfold fileWaiter at h; dsimp only at h
  repeat' split at h
  all_goals try contradiction
  · injection h with h; subst h; rfl
  · injection h with h; subst h; exact (fileChange_fixed _).trans rfl

theorem storeTurn_fixed {s t : State} (h : s.storeTurn = some t) : t.fixed = s.fixed := by
  unfold storeTurn at h; split at h
  · injection h with h; subst h; simp
  · injection h with h; subst h; simp
  · contradiction

theorem markTurn_fixed {s t : State} (h : s.markTurn = some t) : t.fixed = s.fixed := by
  unfold markTurn at h; repeat' split at h
  all_goals first | contradiction | (injection h with h; subst h; simp)

theorem otaTurn_fixed {s t : State} (h : s.otaTurn = some t) : t.fixed = s.fixed := by
  unfold otaTurn at h; split at h
  all_goals first | contradiction | (injection h with h; subst h; simp)

theorem checkTurn_fixed {s t : State} (h : s.checkTurn = some t) : t.fixed = s.fixed := by
  unfold checkTurn at h; split at h
  all_goals first | contradiction | (injection h with h; subst h; simp)

theorem compactTurn_fixed {s t : State} (h : s.compactTurn = some t) : t.fixed = s.fixed := by
  unfold compactTurn at h; split at h
  all_goals first | contradiction | (injection h with h; subst h; simp)

end State
end Sys2Proof.Machine
end

