-- ==== Sys2Proof/Laws/Settle.lean ====
section
/-! SUPPORT. What settling does: it takes due turns until none is due, and it keeps whatever every turn keeps. -/
namespace Sys2Proof.Machine

/-- The eight turns that a settling step can take. -/
theorem State.settle1_cases {s t : State} (h : s.settle1 = some t) :
    s.nextChange = some t ∨ s.fileWaiter = some t ∨ s.storeTurn = some t ∨ s.markTurn = some t ∨ s.otaTurn = some t ∨
      s.checkTurn = some t ∨ s.grantEngine = some t ∨ s.compactTurn = some t := by
  unfold State.settle1 at h
  cases h1 : s.nextChange <;> cases h2 : s.fileWaiter <;> cases h3 : s.storeTurn <;> cases h4 : s.markTurn <;>
    cases h5 : s.otaTurn <;> cases h6 : s.checkTurn <;> cases h7 : s.grantEngine <;> simp_all

/-- A quiet state has no turn that is due. -/
theorem State.quiet_iff (s : State) :
    s.quiet = true ↔ s.nextChange = none ∧ s.fileWaiter = none ∧ s.storeTurn = none ∧ s.markTurn = none ∧
      s.otaTurn = none ∧ s.checkTurn = none ∧ s.grantEngine = none ∧ s.compactTurn = none := by
  unfold State.quiet State.settle1
  cases s.nextChange <;> cases s.fileWaiter <;> cases s.storeTurn <;> cases s.markTurn <;>
    cases s.otaTurn <;> cases s.checkTurn <;> cases s.grantEngine <;> cases s.compactTurn <;> simp

/-- A property that every turn keeps is kept by the loop. -/
theorem settleLoop_keeps (P : State → Prop) (step : ∀ s t, P s → s.settle1 = some t → P t) :
    ∀ (n : Nat) (s : State), P s → P (settleLoop n s)
  | 0, _, h => h
  | n + 1, s, h => by
    unfold settleLoop
    cases e : s.settle1 with
    | none => exact h
    | some t => exact settleLoop_keeps P step n t (step s t h e)

/-- A property that every turn keeps is kept by settling. -/
theorem State.settle_keeps (P : State → Prop) (step : ∀ s t, P s → s.settle1 = some t → P t) (s : State) (h : P s) :
    P s.settle := settleLoop_keeps P step settleFuel s h

theorem settleLoop_quiet (n : Nat) (s : State) (h : s.quiet = true) : settleLoop n s = s := by
  cases n with
  | zero => rfl
  | succ n =>
    unfold settleLoop
    unfold State.quiet at h
    cases e : s.settle1 with
    | none => rfl
    | some t => simp [e] at h

/-- Settling a state in which nothing is due leaves it as it is. -/
theorem State.settle_quiet (s : State) (h : s.quiet = true) : s.settle = s := settleLoop_quiet _ s h

theorem settleLoop_turn (n : Nat) {s t : State} (h : s.settle1 = some t) : settleLoop (n + 1) s = settleLoop n t := by
  rw [settleLoop, h]

/-- After one due turn nothing else is due. -/
theorem State.settle_one {s t : State} (h : s.settle1 = some t) (q : t.quiet = true) : s.settle = t := by
  show settleLoop (1999 + 1) s = t
  rw [settleLoop_turn _ h, settleLoop_quiet _ _ q]

/-- After two due turns nothing else is due. -/
theorem State.settle_two {s t u : State} (h : s.settle1 = some t) (h' : t.settle1 = some u) (q : u.quiet = true) :
    s.settle = u := by
  show settleLoop (1998 + 1 + 1) s = u
  rw [settleLoop_turn _ h, settleLoop_turn _ h', settleLoop_quiet _ _ q]

/-- After three due turns nothing else is due. -/
theorem State.settle_three {s t u v : State} (h : s.settle1 = some t) (h' : t.settle1 = some u) (h'' : u.settle1 = some v)
    (q : v.quiet = true) : s.settle = v := by
  show settleLoop (1997 + 1 + 1 + 1) s = v
  rw [settleLoop_turn _ h, settleLoop_turn _ h', settleLoop_turn _ h'', settleLoop_quiet _ _ q]

theorem State.settle1_fixed {s t : State} (h : s.settle1 = some t) : t.fixed = s.fixed := by
  rcases State.settle1_cases h with h | h | h | h | h | h | h | h
  · exact State.nextChange_fixed h
  · exact State.fileWaiter_fixed h
  · exact State.storeTurn_fixed h
  · exact State.markTurn_fixed h
  · exact State.otaTurn_fixed h
  · exact State.checkTurn_fixed h
  · exact State.grantEngine_fixed h
  · exact State.compactTurn_fixed h

/-- Settling leaves the fixed part alone. -/
@[simp] theorem State.settle_fixed (s : State) : s.settle.fixed = s.fixed :=
  State.settle_keeps (fun t => t.fixed = s.fixed) (fun _ _ h h' => (State.settle1_fixed h').trans h) s rfl

end Sys2Proof.Machine
end

