-- ==== Sys2Proof/Laws/Requests.lean ====
section
/-! SUPPORT. Every request that is not about the link, the guard, the lanes or a grant set, and every event outside the arrays,
leaves the fixed part of the state alone. One lemma per meaning. -/
namespace Sys2Proof.Machine

/-- Every outcome of a command is a next state of which `P` holds. -/
def Result.all (r : Result) (P : State → Prop) : Prop :=
  match r with
  | .next t => P t
  | .fault _ | .refused _ => False

theorem Result.all_next {r : Result} {P : State → Prop} {t : State} (h : r.all P) (e : r = .next t) : P t := by
  subst e; exact h

/-- A request served keeps what its block keeps. -/
theorem serve_all {P : State → Prop} (s : State) (ch : Chan) (code : Byte) (f : Bytes → State) (h0 : P s)
    (h : ∀ body, s.request ch code = some body → P (f body)) : (s.serve ch code f).all P := by
  unfold State.serve
  cases e : s.request ch code with
  | none => exact h0
  | some body => exact h body e

/-- The outcome leaves the fixed part of `s` alone. -/
def Result.fixes (r : Result) (s : State) : Prop := r.all fun t => t.fixed = s.fixed

theorem serve_fixes (s : State) (ch : Chan) (code : Byte) (f : Bytes → State) (h : ∀ body, (f body).fixed = s.fixed) :
    (s.serve ch code f).fixes s := serve_all s ch code f rfl fun body _ => h body

theorem serveWork_fixes (s : State) (ch : Chan) (code : Byte) (f : Bytes → State) (h : ∀ body, (f body).fixed = s.fixed) :
    (s.serveWork ch code f).fixes s := serve_fixes s ch code _ fun body => (State.settle_fixed _).trans (h body)

@[simp] theorem emptyBody_fixed (s : State) (ch : Chan) (body : Bytes) (t : State) (h : t.fixed = s.fixed) :
    (s.emptyBody ch body t).fixed = s.fixed := by
  unfold State.emptyBody; split
  · exact h
  · simp

theorem State.withHandle_fixed (s : State) (ch : Chan) (body : Bytes) (f : Handle → Ctx → State)
    (h : ∀ x c, (f x c).fixed = s.fixed) : (s.withHandle ch body f).fixed = s.fixed := by
  unfold State.withHandle; repeat' split
  all_goals first | exact h _ _ | simp

@[simp] theorem State.takeEvent_fixed (s : State) (ch : Chan) : (s.takeEvent ch).fixed = s.fixed := by
  unfold State.takeEvent; dsimp only; split
  · simp
  · rw [State.reply_fixed]; exact State.setChan_fixed s ch _ (by simp)

@[simp] theorem State.wrongLifecycle_fixed (s : State) : s.wrongLifecycle.fixed = s.fixed := by simp [State.wrongLifecycle]

@[simp] theorem State.applyDecay_fixed (s : State) (n : Nat) (p : Params) : (s.applyDecay n p).fixed = s.fixed := by
  simp [State.applyDecay]

@[simp] theorem State.attempt_fixed (s : State) (n : Nat) (x : Bytes) (r : Rec) : (s.attempt n x r).fixed = s.fixed := by
  unfold State.attempt; dsimp only; split <;> simp

@[simp] theorem State.verifyOwner_fixed (s : State) (n : Nat) (x : Bytes) : (s.verifyOwner n x).fixed = s.fixed := by
  unfold State.verifyOwner; repeat' split
  all_goals simp

@[simp] theorem State.setVerifier_fixed (s : State) (a : SetVerifierArgs) : (s.setVerifier a).fixed = s.fixed := by
  unfold State.setVerifier
  have hj := State.judgeVerifier_fixed s
  repeat' split
  all_goals simp_all

@[simp] theorem State.loadContext_fixed (s : State) (ch : Chan) (n : Nat) (g : Word) (r : Rec) :
    (s.loadContext ch n g r).fixed = s.fixed := by
  unfold State.loadContext; dsimp only; split <;> simp

@[simp] theorem State.judgeOpen_fixed (s : State) (ch : Chan) (r : Rec) : (s.judgeOpen ch r).2.fixed = s.fixed := by
  unfold State.judgeOpen; repeat' split
  all_goals simp

@[simp] theorem State.openKey_fixed (s : State) (ch : Chan) (n : Nat) : (s.openKey ch n).fixed = s.fixed := by
  unfold State.openKey
  split
  · simp
  · rename_i r _
    split
    · simp
    · split
      · simp
      · have hj := State.judgeOpen_fixed s ch r
        generalize s.judgeOpen ch r = x at hj
        obtain ⟨b, u⟩ := x
        cases b
        · simpa using hj
        · dsimp only at hj ⊢
          split <;> simp [hj]

@[simp] theorem State.fileUse_fixed (s : State) (ch : Chan) (c : Claim) : (s.fileUse ch c).fixed = s.fixed := by
  simp [State.fileUse]

@[simp] theorem State.extend_fixed (s : State) (ch : Chan) (a : ExtendArgs) : (s.extend ch a).fixed = s.fixed := by
  unfold State.extend; repeat' split
  all_goals simp

@[simp] theorem State.startAdmission_fixed (s : State) (b : Bank) : (s.startAdmission b).fixed = s.fixed := by
  simp [State.startAdmission]

@[simp] theorem State.finishAbort_fixed (s : State) (a : AdmState) : (s.finishAbort a).fixed = s.fixed := by
  simp [State.finishAbort]

@[simp] theorem State.dropF_fixed (s : State) : s.dropF.fixed = s.fixed := rfl

@[simp] theorem State.abortAdmission_fixed (s : State) : s.abortAdmission.fixed = s.fixed := by
  unfold State.abortAdmission; dsimp only; split <;> simp

@[simp] theorem State.alreadyConfirmed_fixed (s : State) (b : Bank) : (s.alreadyConfirmed b).fixed = s.fixed := by
  simp [State.alreadyConfirmed]

@[simp] theorem State.startConfirm_fixed (s : State) (b : Bank) : (s.startConfirm b).fixed = s.fixed := by
  simp [State.startConfirm]

/-! ### Requests -/

theorem execIdentify_fixes (ch : Chan) (s : State) : (execIdentify ch s).fixes s :=
  serve_fixes s ch _ _ fun _ => by simp

theorem execReadEvents_fixes (ch : Chan) (s : State) : (execReadEvents ch s).fixes s :=
  serve_fixes s ch _ _ fun _ => by simp

theorem execGetSetting_fixes (ch : Chan) (s : State) : (execGetSetting ch s).fixes s :=
  serve_fixes s ch _ _ fun _ => by repeat' split
                                   all_goals simp

theorem execSetSetting_fixes (s : State) : (execSetSetting s).fixes s :=
  serveWork_fixes s _ _ _ fun _ => by repeat' split
                                      all_goals simp

theorem execWriteIdentity_fixes (s : State) : (execWriteIdentity s).fixes s :=
  serveWork_fixes s _ _ _ fun _ => by repeat' split
                                      all_goals simp

theorem execGenerateDeviceKeys_fixes (s : State) : (execGenerateDeviceKeys s).fixes s :=
  serveWork_fixes s _ _ _ fun _ => emptyBody_fixed _ _ _ _ (by repeat' split
                                                               all_goals simp)

theorem execInstallRoot_fixes (s : State) : (execInstallRoot s).fixes s :=
  serveWork_fixes s _ _ _ fun _ => by repeat' split
                                      all_goals simp

theorem execSeal_fixes (s : State) : (execSeal s).fixes s :=
  serveWork_fixes s _ _ _ fun _ => emptyBody_fixed _ _ _ _ (by repeat' split
                                                               all_goals simp)

theorem execReadStoreHealth_fixes (ch : Chan) (s : State) : (execReadStoreHealth ch s).fixes s :=
  serve_fixes s ch _ _ fun _ => by simp

theorem execWriteSlot_fixes (ch : Chan) (s : State) : (execWriteSlot ch s).fixes s :=
  serveWork_fixes s ch _ _ fun _ => by
    repeat' split
    all_goals try simp
    all_goals
      rename_i h
      have := congrArg (fun x => x.2.fixed) h
      simp at this; simp [← this]

theorem execGenerateKey_fixes (ch : Chan) (s : State) : (execGenerateKey ch s).fixes s :=
  serveWork_fixes s ch _ _ fun _ => by
    repeat' split
    all_goals try simp
    all_goals
      rename_i h
      have := congrArg (fun x => x.2.fixed) h
      simp at this; simp [← this]

theorem execDeleteSlot_fixes (ch : Chan) (s : State) : (execDeleteSlot ch s).fixes s :=
  serveWork_fixes s ch _ _ fun _ => by
    repeat' split
    all_goals try simp
    all_goals
      rename_i h
      have := congrArg (fun x => x.2.fixed) h
      simp at this; simp [← this]

theorem execReadSlotInfo_fixes (ch : Chan) (s : State) : (execReadSlotInfo ch s).fixes s :=
  serve_fixes s ch _ _ fun _ => by repeat' split
                                   all_goals simp

theorem execVerifyOwner_fixes (s : State) : (execVerifyOwner s).fixes s :=
  serveWork_fixes s _ _ _ fun _ => by repeat' split
                                      all_goals simp

theorem execEndOwner_fixes (s : State) : (execEndOwner s).fixes s := serve_fixes s _ _ _ fun _ => by simp

theorem execSetVerifier_fixes (s : State) : (execSetVerifier s).fixes s :=
  serveWork_fixes s _ _ _ fun _ => by repeat' split
                                      all_goals simp

theorem execReadThrottle_fixes (ch : Chan) (s : State) : (execReadThrottle ch s).fixes s :=
  serve_fixes s ch _ _ fun _ => by repeat' split
                                   all_goals simp

theorem execOpenKey_fixes (ch : Chan) (s : State) : (execOpenKey ch s).fixes s :=
  serveWork_fixes s ch _ _ fun _ => by repeat' split
                                       all_goals simp

theorem execCloseKey_fixes (ch : Chan) (s : State) : (execCloseKey ch s).fixes s :=
  serve_fixes s ch _ _ fun _ => State.withHandle_fixed _ _ _ _ fun _ _ => by simp

theorem execPinKey_fixes (ch : Chan) (s : State) : (execPinKey ch s).fixes s :=
  serve_fixes s ch _ _ fun _ => State.withHandle_fixed _ _ _ _ fun _ _ => by
    repeat' split
    all_goals simp [State.pinReply]

theorem execUnpinKey_fixes (ch : Chan) (s : State) : (execUnpinKey ch s).fixes s :=
  serve_fixes s ch _ _ fun _ => State.withHandle_fixed _ _ _ _ fun _ _ => by simp [State.pinReply]

theorem execListContexts_fixes (ch : Chan) (s : State) : (execListContexts ch s).fixes s :=
  serve_fixes s ch _ _ fun _ => by simp

theorem execSign_fixes (ch : Chan) (s : State) : (execSign ch s).fixes s :=
  serveWork_fixes s ch _ _ fun _ => by split <;> simp

theorem execDerive_fixes (ch : Chan) (s : State) : (execDerive ch s).fixes s :=
  serveWork_fixes s ch _ _ fun _ => by split <;> simp

theorem execReleaseSecret_fixes (ch : Chan) (s : State) : (execReleaseSecret ch s).fixes s :=
  serveWork_fixes s ch _ _ fun _ => by split <;> simp

theorem execExtend_fixes (ch : Chan) (s : State) : (execExtend ch s).fixes s :=
  serveWork_fixes s ch _ _ fun _ => by split <;> simp

theorem execReadLanes_fixes (ch : Chan) (s : State) : (execReadLanes ch s).fixes s :=
  serve_fixes s ch _ _ fun _ => by simp

theorem execReadLog_fixes (ch : Chan) (s : State) : (execReadLog ch s).fixes s :=
  serve_fixes s ch _ _ fun _ => by split <;> simp

theorem execQuote_fixes (ch : Chan) (s : State) : (execQuote ch s).fixes s :=
  serveWork_fixes s ch _ _ fun _ => by repeat' split
                                       all_goals simp

theorem execReadBootState_fixes (ch : Chan) (s : State) : (execReadBootState ch s).fixes s :=
  serve_fixes s ch _ _ fun _ => by simp

theorem execReleaseRecovery_fixes (s : State) : (execReleaseRecovery s).fixes s :=
  serveWork_fixes s _ _ _ fun _ => emptyBody_fixed _ _ _ _ (by split <;> simp)

theorem execSelectBank_fixes (s : State) : (execSelectBank s).fixes s :=
  serveWork_fixes s _ _ _ fun _ => by repeat' split
                                      all_goals simp

theorem execAdmitBank_fixes (s : State) : (execAdmitBank s).fixes s :=
  serveWork_fixes s _ _ _ fun _ => by repeat' split
                                      all_goals simp

theorem execAdmissionStatus_fixes (ch : Chan) (s : State) : (execAdmissionStatus ch s).fixes s :=
  serve_fixes s ch _ _ fun _ => by simp

theorem execAbortAdmission_fixes (s : State) : (execAbortAdmission s).fixes s :=
  serveWork_fixes s _ _ _ fun _ => emptyBody_fixed _ _ _ _ (by split <;> simp)

theorem execConfirmBoot_fixes (s : State) : (execConfirmBoot s).fixes s :=
  serveWork_fixes s _ _ _ fun _ => emptyBody_fixed _ _ _ _ (by repeat' split
                                                               all_goals simp)

/-! ### Requests that change one fixed field -/

/-- The guard, once the named command has changed nothing else of the fixed part. -/
theorem execSetGuard_all (s : State) :
    (execSetGuard s).all fun t => t.fixed = { s.fixed with guard := t.guard } ∧ (s.guard.frozen = true → t.guard = s.guard) :=
  serve_all s _ _ _ ⟨rfl, fun _ => rfl⟩ fun body _ => by
    repeat' split
    all_goals first
      | exact ⟨(State.refuse_fixed _ _ _), fun _ => by simp⟩
      | exact ⟨rfl, fun h => by simp_all⟩

theorem execFreezeGuard_all (s : State) :
    (execFreezeGuard s).all fun t => t.fixed = { s.fixed with guard := t.guard } ∧ (s.guard.frozen = true → t.guard = s.guard) :=
  serve_all s _ _ _ ⟨rfl, fun _ => rfl⟩ fun body _ => by
    unfold State.emptyBody; repeat' split
    all_goals first
      | exact ⟨(State.refuse_fixed _ _ _), fun _ => by simp⟩
      | exact ⟨rfl, fun h => by simp_all⟩

theorem execOwnerReset_all (rcv : Bool) (s : State) :
    (execOwnerReset rcv s).all fun t => t.fixed = { s.fixed with rcv := t.rcv } :=
  serve_all s _ _ _ rfl fun body _ => by
    have key : ∀ u : State, u.fixed = State.fixed { s with rcv := rcv } →
        u.settle.fixed = { s.fixed with rcv := u.settle.rcv } := by
      intro u hu
      have h1 := State.settle_fixed u
      have h2 : u.settle.rcv = rcv := by
        have := congrArg Fixed.rcv (h1.trans hu); exact this
      rw [h1, hu, h2]; rfl
    refine key _ (emptyBody_fixed _ _ _ _ ?_)
    split <;> simp

/-- RESTRICT GRANTS changes channel A's grant set alone, and only takes domains out of it (R16). -/
theorem execRestrictGrants_all (s : State) :
    (execRestrictGrants s).all fun t =>
      t.fixed = { s.fixed with grantsA := t.chA.grants } ∧ t.chA.grants &&& ~~~ s.chA.grants = 0#6 :=
  serve_all s _ _ _ ⟨rfl, by simp⟩ fun body _ => by
    repeat' split
    · exact ⟨State.refuse_fixed _ _ _, by simp [State.refuse, State.reply, State.setChan, State.chan]⟩
    · refine ⟨rfl, ?_⟩
      simp only [State.reply, State.setChan, State.chan, State.narrow, State.invalidate]
      rename_i n _ _
      generalize s.chA.grants = a
      generalize BitVec.ofNat 6 n = b
      ext i; simp; intro h1 _; exact h1
    · exact ⟨State.refuse_fixed _ _ _, by simp [State.refuse, State.reply, State.setChan, State.chan]⟩

end Sys2Proof.Machine
end

