-- ==== Sys2Proof/Laws/Events.lean ====
section
/-! SUPPORT. What the events of the part change of its fixed state: engine ends, flash reads and boot events nothing, array ends
the cells, an extension the lanes and the log, a release and a restart the pins. One lemma per meaning. -/
namespace Sys2Proof.Machine
namespace State

/-! ### Results of the engine -/

@[simp] theorem manifestDigested_fixed (s : State) (d : Bytes) : (s.manifestDigested d).fixed = s.fixed := by
  unfold manifestDigested; dsimp only; repeat' split
  all_goals simp

@[simp] theorem anchorDigested_fixed (s : State) (d : Bytes) : (s.anchorDigested d).fixed = s.fixed := by
  unfold anchorDigested; split <;> simp

@[simp] theorem signatureChecked_fixed (s : State) (v : Bool) : (s.signatureChecked v).fixed = s.fixed := by
  unfold signatureChecked; repeat' split
  all_goals simp

@[simp] theorem chunkHashed_fixed (s : State) (x : DigestState) (n : Nat) : (s.chunkHashed x n).fixed = s.fixed := by
  unfold chunkHashed; dsimp only; split <;> simp

@[simp] theorem segmentDigested_fixed (s : State) (d : Bytes) : (s.segmentDigested d).fixed = s.fixed := by
  unfold segmentDigested; dsimp only; repeat' split
  all_goals simp

@[simp] theorem partExtended_fixed (s : State) : s.partExtended.fixed = s.fixed := by
  unfold partExtended; dsimp only; split <;> simp

@[simp] theorem rootDigested_fixed (s : State) (d : Bytes) : (s.rootDigested d).fixed = s.fixed := by
  unfold rootDigested; repeat' split
  all_goals simp

@[simp] theorem compositeDigested_fixed (s : State) (ch : Chan) (n : Nat) (g : Word) (r : Rec) (x : Bool) (d : Bytes) :
    (s.compositeDigested ch n g r x d).fixed = s.fixed := by
  unfold compositeDigested; dsimp only; repeat' split
  all_goals simp

@[simp] theorem quoteDigested_fixed (s : State) (ch : Chan) (x d : Bytes) : (s.quoteDigested ch x d).fixed = s.fixed := by
  simp [quoteDigested]

@[simp] theorem digestEnded_fixed (s : State) (who : Claimant) (p : DigestFor) (d : Bytes) :
    (s.digestEnded who p d).fixed = s.fixed := by
  unfold digestEnded; split <;> simp

@[simp] theorem signEnded_fixed (s : State) (ch : Chan) (x : Bytes) : (s.signEnded ch x).fixed = s.fixed := by
  unfold signEnded; split <;> simp

@[simp] theorem verifyStretched_fixed (s : State) (n : Nat) (r : Rec) (v : Bytes) :
    (s.verifyStretched n r v).fixed = s.fixed := by
  unfold verifyStretched; dsimp only; split
  · rw [fileJob_fixed, setWork_fixed]; rfl
  · simp

@[simp] theorem stretchEnded_fixed (s : State) (v : Bytes) : (s.stretchEnded v).fixed = s.fixed := by
  unfold stretchEnded; split <;> simp

@[simp] theorem randomEnded_fixed (s : State) (h : Bool) (d : Bytes) : (s.randomEnded h d).fixed = s.fixed := by
  unfold randomEnded; repeat' split
  all_goals simp

@[simp] theorem keyGenerated_fixed (s : State) (ch : Chan) (p : Bytes) (x : Option Bytes) :
    (s.keyGenerated ch p x).fixed = s.fixed := by
  unfold keyGenerated; split <;> simp

@[simp] theorem seedGenerated_fixed (s : State) (x : Bytes) : (s.seedGenerated x).fixed = s.fixed := by simp [seedGenerated]

@[simp] theorem attestGenerated_fixed (s : State) (x : Bytes) : (s.attestGenerated x).fixed = s.fixed := by
  unfold attestGenerated; dsimp only; split <;> simp

@[simp] theorem keygenFault_fixed (s : State) (ch : Chan) : (s.keygenFault ch).fixed = s.fixed := by simp [keygenFault]

/-! ### Flash reads and the boot controller -/

@[simp] theorem droppedRead_fixed (s : State) : s.droppedRead.fixed = s.fixed := by
  unfold droppedRead; split <;> simp

@[simp] theorem identified_fixed (s : State) (a b c : Byte) : (s.identified a b c).fixed = s.fixed := by
  unfold identified; repeat' split
  all_goals simp

@[simp] theorem manifestRead_fixed (s : State) (b : Bytes) : (s.manifestRead b).fixed = s.fixed := by
  unfold manifestRead; dsimp only; split <;> simp

@[simp] theorem beginPhase_fixed (s : State) : s.beginPhase.fixed = s.fixed := by
  unfold beginPhase; dsimp only; split <;> simp

@[simp] theorem recoveryReply_fixed (s : State) : s.recoveryReply.fixed = s.fixed := by
  unfold recoveryReply; split <;> simp

end State

/-! ### Meanings that leave the fixed part alone -/

theorem jobEnd_fixes (s : State) (r : Running) (f : State → State) (h : ∀ u, (f u).fixed = u.fixed) :
    (s.jobEnd r f).fixes s := by
  unfold State.jobEnd Result.fixes Result.all; dsimp only
  split <;> simp [h]

theorem execHashChunkEnd_fixes (s : State) : (execHashChunkEnd s).fixes s := by
  unfold execHashChunkEnd; repeat' split
  all_goals first | exact jobEnd_fixes _ _ _ fun _ => by simp | exact rfl

theorem execFinishDigestEnd_fixes (s : State) : (execFinishDigestEnd s).fixes s := by
  unfold execFinishDigestEnd; repeat' split
  all_goals first | exact jobEnd_fixes _ _ _ fun _ => by simp | exact rfl

theorem execVerifySignatureEnd_fixes (s : State) : (execVerifySignatureEnd s).fixes s := by
  unfold execVerifySignatureEnd; repeat' split
  all_goals first | exact jobEnd_fixes _ _ _ fun _ => by simp | exact rfl

theorem execSignJobEnd_fixes (s : State) : (execSignJobEnd s).fixes s := by
  unfold execSignJobEnd; repeat' split
  all_goals first | exact jobEnd_fixes _ _ _ fun _ => by simp | exact rfl

theorem execDeriveJobEnd_fixes (s : State) : (execDeriveJobEnd s).fixes s := by
  unfold execDeriveJobEnd; repeat' split
  all_goals first | exact jobEnd_fixes _ _ _ fun _ => by simp | exact rfl

theorem execStretchEnd_fixes (s : State) : (execStretchEnd s).fixes s := by
  unfold execStretchEnd; repeat' split
  all_goals first | exact jobEnd_fixes _ _ _ fun _ => by simp | exact rfl

theorem execKeygenEnd_fixes (h : Bool) (d : List Bytes) (s : State) : (execKeygenEnd h d s).fixes s := by
  unfold execKeygenEnd; dsimp only; repeat' split
  all_goals first
    | exact jobEnd_fixes _ _ _ fun _ => by simp
    | exact jobEnd_fixes _ _ _ fun _ => by split <;> simp
    | exact rfl

theorem execRandomEnd_fixes (h : Bool) (d : Bytes) (s : State) : (execRandomEnd h d s).fixes s := by
  unfold execRandomEnd; repeat' split
  all_goals first | exact jobEnd_fixes _ _ _ fun _ => by simp | exact rfl

theorem execOwnerGrantIdleExpiry_fixes (s : State) : (execOwnerGrantIdleExpiry s).fixes s := by
  unfold execOwnerGrantIdleExpiry; repeat' split
  · exact State.endGrant_fixed s
  · exact rfl
  · exact rfl

theorem readEnd_fixes (s : State) (r : FlashBusy) (f : State → State) (h : ∀ u, (f u).fixed = u.fixed) :
    (s.readEnd r f).fixes s := by
  unfold State.readEnd Result.fixes Result.all; dsimp only
  split <;> simp [h]

theorem execFlashIdReadDone_fixes (a b c : Byte) (s : State) : (execFlashIdReadDone a b c s).fixes s := by
  unfold execFlashIdReadDone; repeat' split
  all_goals first | exact readEnd_fixes _ _ _ fun _ => by simp | exact rfl

theorem execManifestReadDone_fixes (b : Bytes) (s : State) : (execManifestReadDone b s).fixes s := by
  unfold execManifestReadDone; repeat' split
  all_goals first | exact readEnd_fixes _ _ _ fun _ => by simp | exact rfl

theorem execChunkReadDone_fixes (b : Bytes) (s : State) : (execChunkReadDone b s).fixes s := by
  unfold execChunkReadDone; repeat' split
  all_goals first | exact readEnd_fixes _ _ _ fun _ => by simp | exact rfl

theorem execBootPhaseBegin_fixes (s : State) : (execBootPhaseBegin s).fixes s := by
  unfold execBootPhaseBegin; split
  · exact (State.settle_fixed _).trans (State.beginPhase_fixed s)
  · exact rfl

/-! ### The link -/

/-- The fixed part but for the link. -/
def State.offLink (s : State) : Fixed := { s.fixed with link := { line := .waitStart, ack := none, dataOut := [] } }

theorem State.offLink_of_fixed {s t : State} (h : t.fixed = s.fixed) : t.offLink = s.offLink := by
  unfold State.offLink; rw [h]

@[simp] theorem State.setLine_offLink (s : State) (l : Line) : (s.setLine l).offLink = s.offLink := rfl
@[simp] theorem State.setAck_offLink (s : State) (a : Bool) : (s.setAck a).offLink = s.offLink := rfl
@[simp] theorem State.setOut_offLink (s : State) (b : Bytes) : (s.setOut b).offLink = s.offLink := rfl

theorem State.setChan_offLink (s : State) (ch : Chan) (c : Channel) (h : c.grants = (s.chan ch).grants) :
    (s.setChan ch c).offLink = s.offLink := State.offLink_of_fixed (State.setChan_fixed s ch c h)

@[simp] theorem Channel.answer_grants (c : Channel) (st : Status) : (c.answer st).grants = c.grants := rfl

@[simp] theorem Channel.close_grants (c : Channel) (lc : Lifecycle) (ch : Chan) : (c.close lc ch).grants = c.grants := by
  unfold Channel.close; dsimp only; repeat' split
  all_goals rfl

@[simp] theorem Channel.takeData_grants (c : Channel) (b : Byte) : (c.takeData b).1.grants = c.grants := by
  unfold Channel.takeData; dsimp only; repeat' split
  all_goals rfl

@[simp] theorem Channel.startReceiving_grants (c : Channel) : c.startReceiving.grants = c.grants := by
  unfold Channel.startReceiving; split <;> rfl

@[simp] theorem State.closeWrite_offLink (s : State) : s.closeWrite.offLink = s.offLink := by
  unfold State.closeWrite; repeat' split
  · exact State.setChan_offLink _ _ _ (by simp)
  all_goals rfl

theorem execAddressByte_offLink (b : Byte) (s : State) : (execAddressByte b s).all fun t => t.offLink = s.offLink := by
  unfold execAddressByte; split
  · exact rfl
  · exact State.closeWrite_offLink s

theorem execWriteDataByte_offLink (b : Byte) (s : State) : (execWriteDataByte b s).all fun t => t.offLink = s.offLink := by
  unfold execWriteDataByte; dsimp only
  repeat' split
  all_goals try exact rfl
  all_goals exact State.setChan_offLink _ _ _ (by simp)

theorem execFrameClose_offLink (s : State) : (execFrameClose s).all fun t => t.offLink = s.offLink := by
  unfold execFrameClose; split
  · exact rfl
  · exact State.closeWrite_offLink s

theorem execReadFrame_offLink (n : Nat) (e : Bool) (s : State) : (execReadFrame n e s).all fun t => t.offLink = s.offLink := by
  unfold execReadFrame; dsimp only
  repeat' split
  all_goals try exact rfl
  all_goals
    unfold Result.all
    dsimp only
    simp only [State.setLine_offLink]
    exact State.setChan_offLink _ _ _ rfl

theorem execStuckLineTimerExpiry_offLink (s : State) :
    (execStuckLineTimerExpiry s).all fun t => t.offLink = s.offLink := by
  unfold execStuckLineTimerExpiry; dsimp only
  repeat' split
  all_goals try exact rfl
  all_goals
    unfold Result.all
    dsimp only
    simp only [State.setLine_offLink]
    first
      | rfl
      | exact State.setChan_offLink _ _ _ (by simp)

end Sys2Proof.Machine
end

