-- ==== Sys2Proof/Laws/Memory.lean ====
section
/-! SUPPORT. Every operation over the store array keeps its canonical form, and reads give back what was written. -/
namespace Sys2Proof.Machine

theorem Mem.wfFrom_mono {lo lo' : Nat} : ∀ {m : List Host.Cell}, lo ≤ lo' → Mem.wfFrom lo' m = true → Mem.wfFrom lo m = true
  | [], _, _ => rfl
  | c :: rest, h, hm => by
    simp only [Mem.wfFrom, Bool.and_eq_true, decide_eq_true_eq] at hm ⊢
    exact ⟨⟨⟨Nat.le_trans h hm.1.1.1, hm.1.1.2⟩, hm.1.2⟩, hm.2⟩

theorem Mem.filter_wf (p : Host.Cell → Bool) : ∀ {lo : Nat} {m : List Host.Cell},
    Mem.wfFrom lo m = true → Mem.wfFrom lo (m.filter p) = true
  | _, [], _ => rfl
  | lo, c :: rest, hm => by
    have hm' := hm
    simp only [Mem.wfFrom, Bool.and_eq_true, decide_eq_true_eq] at hm'
    have ih := Mem.filter_wf p hm'.2
    by_cases hp : p c = true
    · rw [List.filter_cons_of_pos hp]
      simp only [Mem.wfFrom, Bool.and_eq_true, decide_eq_true_eq]
      exact ⟨hm'.1, ih⟩
    · rw [List.filter_cons_of_neg hp]
      exact Mem.wfFrom_mono (by omega) ih

theorem Mem.write_wf (a : Nat) (v : Byte) (ha : a < Mem.size) : ∀ {lo : Nat} {m : List Host.Cell},
    lo ≤ a → Mem.wfFrom lo m = true → Mem.wfFrom lo (Mem.write m a v) = true
  | lo, [], hl, _ => by
    unfold Mem.write; split
    · rfl
    · simp_all [Mem.wfFrom]
  | lo, c :: rest, hl, hm => by
    have hm' := hm
    simp only [Mem.wfFrom, Bool.and_eq_true, decide_eq_true_eq] at hm'
    unfold Mem.write
    split
    · rename_i hc
      simp only [Mem.wfFrom, Bool.and_eq_true, decide_eq_true_eq]
      exact ⟨hm'.1, Mem.write_wf a v ha (by omega) hm'.2⟩
    · split
      · rename_i hc
        split
        · exact Mem.wfFrom_mono (by omega) hm'.2
        · simp only [Mem.wfFrom, Bool.and_eq_true, decide_eq_true_eq]
          refine ⟨⟨⟨hl, ha⟩, by simp_all⟩, ?_⟩
          rw [← hc]; exact hm'.2
      · rename_i h1 h2
        split
        · exact hm
        · simp only [Mem.wfFrom, Bool.and_eq_true, decide_eq_true_eq]
          exact ⟨⟨⟨hl, ha⟩, by simp_all⟩, ⟨⟨⟨by omega, hm'.1.1.2⟩, hm'.1.2⟩, hm'.2⟩⟩

theorem Mem.writeBytes_wf : ∀ (bs : Bytes) (m : List Host.Cell) (a : Nat), a + bs.length ≤ Mem.size →
    Memory.wf m = true → Memory.wf (Mem.writeBytes m a bs) = true
  | [], _, _, _, h => h
  | b :: bs, m, a, hb, h => by
    simp only [List.length_cons] at hb
    exact Mem.writeBytes_wf bs _ (a + 1) (by omega) (Mem.write_wf a b (by omega) (Nat.zero_le a) h)

theorem fit_length (n : Nat) (fill : Byte) (bs : Bytes) : (fit n fill bs).length = n := by
  simp [fit]; omega

theorem Mem.setPage_wf (m : List Host.Cell) (p : Nat) (bs : Bytes) (h : Memory.wf m = true) :
    Memory.wf (Mem.setPage m p bs) = true := by
  unfold Mem.setPage; split
  · rename_i hp
    refine Mem.writeBytes_wf _ _ _ ?_ h
    rw [fit_length]; simp only [Mem.size]; omega
  · exact h

theorem Mem.clear_wf (m : List Host.Cell) (lo hi : Nat) (h : Memory.wf m = true) : Memory.wf (Mem.clear m lo hi) = true :=
  Mem.filter_wf _ h

theorem Mem.setResidue_wf (b : Nat) : ∀ (l : List (Nat × Byte)) (m : List Host.Cell), Memory.wf m = true →
    Memory.wf (Mem.setResidue m b l) = true
  | [], _, h => h
  | c :: rest, m, h => by
    unfold Mem.setResidue
    refine Mem.setResidue_wf b rest _ ?_
    split
    · rename_i hc
      exact Mem.write_wf _ _ (by simp only [Mem.size]; omega) (Nat.zero_le _) h
    · exact h

theorem Mem.eraseBlock_wf (m : List Host.Cell) (b : Nat) (l : List (Nat × Byte)) (h : Memory.wf m = true) :
    Memory.wf (Mem.eraseBlock m b l) = true := Mem.setResidue_wf b l _ (Mem.clear_wf m _ _ h)

theorem Mem.readBytes_length (m : List Host.Cell) : ∀ (n a : Nat), (Mem.readBytes m n a).length = n
  | 0, _ => rfl
  | n + 1, a => by simp [Mem.readBytes, Mem.readBytes_length m n]

theorem voidGen_wf (m : List Host.Cell) (p : Nat) (bad : Option Word) (h : Memory.wf m = true) :
    Memory.wf (voidGen m p bad) = true := by
  unfold voidGen; dsimp only; split
  · rename_i hp
    refine Mem.writeBytes_wf _ _ _ ?_ h
    rw [List.length_zipWith, Mem.readBytes_length]
    simp only [Mem.size]; omega
  · exact h

theorem cutErase_wf (m : List Host.Cell) (b n : Nat) (mask : Bytes) (h : Memory.wf m = true) :
    Memory.wf (cutErase m b n mask) = true := by
  unfold cutErase; dsimp only; split
  · exact Mem.setPage_wf _ _ _ (Mem.clear_wf _ _ _ h)
  · exact Mem.clear_wf _ _ _ h

theorem Store.afterCut_wf (st : Store) (cut : Cut) (h : Memory.wf st.mem = true) : Memory.wf (st.afterCut cut) = true := by
  unfold Store.afterCut; split
  · exact h
  · exact Mem.setPage_wf _ _ _ h
  · exact Mem.setPage_wf _ _ _ h
  · exact voidGen_wf _ _ _ h
  · exact voidGen_wf _ _ _ h
  · exact cutErase_wf _ _ _ _ h
  · exact cutErase_wf _ _ _ _ h

/-- The array at reset lists nothing, which is canonical. -/
theorem Memory.wf_nil : Memory.wf [] = true := rfl

/-! ### Reads after writes -/

theorem Mem.read_below : ∀ {lo : Nat} {m : List Host.Cell} {a : Nat}, Mem.wfFrom lo m = true → a < lo →
    Mem.read m a = Mem.erased
  | _, [], _, _, _ => rfl
  | lo, c :: rest, a, hm, ha => by
    simp only [Mem.wfFrom, Bool.and_eq_true, decide_eq_true_eq] at hm
    unfold Mem.read
    rw [if_neg (by omega)]
    exact Mem.read_below hm.2 (by omega)

/-- A byte written reads back; every other byte reads as before. -/
theorem Mem.read_write (a x : Nat) (v : Byte) : ∀ {lo : Nat} {m : List Host.Cell}, Mem.wfFrom lo m = true →
    Mem.read (Mem.write m a v) x = if x = a then v else Mem.read m x
  | lo, [], _ => by
    unfold Mem.write; split
    · rename_i hv; split <;> simp_all [Mem.read]
    · simp only [Mem.read]; split <;> split <;> simp_all
  | lo, c :: rest, hm => by
    have hm' := hm
    simp only [Mem.wfFrom, Bool.and_eq_true, decide_eq_true_eq] at hm'
    have ih := Mem.read_write a x v hm'.2
    unfold Mem.write
    split
    · rename_i hc
      simp only [Mem.read, ih]
      split <;> split <;> first | rfl | (exfalso; omega)
    · split
      · rename_i hc
        split
        · rename_i hv
          have := Mem.read_below (a := a) hm'.2 (by omega)
          split
          · simp_all
          · conv => rhs; unfold Mem.read
            rw [if_neg (by omega)]
        · simp only [Mem.read]
          split <;> split <;> first | rfl | (exfalso; omega) | simp_all
      · rename_i h1 h2
        split
        · rename_i hv
          split
          · rename_i hx
            subst hx
            rw [hv]
            simp only [Mem.read]
            rw [if_neg h2]
            exact Mem.read_below hm'.2 (by omega)
          · rfl
        · conv => lhs; unfold Mem.read
          split <;> split <;> first | rfl | (exfalso; omega) | simp_all

end Sys2Proof.Machine
end

