-- ==== Sys2Proof/Laws/Arrays.lean ====
section
/-! SUPPORT. What the ends of array operations, an extension, a release, a restart, a reset and the clock change of the fixed
part of the state, and what they keep: the canonical form, generations, one-time cells, the log. -/
namespace Sys2Proof.Machine

/-! ### Generations -/

theorem insertEntry_find (x : SlotEntry) (n : Nat) : ∀ l : List SlotEntry,
    (insertEntry x l).find? (fun e => e.slot == n) =
      if x.slot = n then some x else l.find? fun e => e.slot == n
  | [] => by
    unfold insertEntry; by_cases h : x.slot = n <;> simp [h]
  | e :: rest => by
    have ih := insertEntry_find x n rest
    unfold insertEntry
    split
    · rename_i h
      by_cases he : e.slot = n
      · rw [List.find?_cons_of_pos (by simp [he]), List.find?_cons_of_pos (by simp [he]), if_neg (by omega)]
      · rw [List.find?_cons_of_neg (by simp [he]), List.find?_cons_of_neg (by simp [he])]; exact ih
    · split
      · rename_i h1 h2
        by_cases hx : x.slot = n
        · rw [List.find?_cons_of_pos (by simp [hx]), if_pos hx]
        · rw [List.find?_cons_of_neg (by simp [hx]), List.find?_cons_of_neg (by simp [h2, hx]), if_neg hx]
      · by_cases hx : x.slot = n
        · rw [List.find?_cons_of_pos (by simp [hx]), if_pos hx]
        · rw [List.find?_cons_of_neg (by simp [hx]), if_neg hx]

theorem movePage_find (src dst n : Nat) : ∀ l : List SlotEntry,
    (movePage src dst l).find? (fun e => e.slot == n) =
      (l.find? fun e => e.slot == n).map fun e => if e.page = src then { e with page := dst } else e
  | [] => rfl
  | e :: rest => by
    have ih := movePage_find src dst n rest
    have hs : (if e.page = src then { e with page := dst } else e).slot = e.slot := by split <;> rfl
    simp only [movePage, List.map_cons, List.find?_cons] at ih ⊢
    rw [hs]
    cases h : (e.slot == n)
    · exact ih
    · rfl

/-- The generation of a slot in a map. -/
def mapGen (l : List SlotEntry) (n : Nat) : Word :=
  match l.find? fun e => e.slot == n with
  | none => 0#32
  | some e => e.gen

theorem Store.gen_eq (st : Store) (n : Nat) : st.gen n = mapGen st.map n := rfl

theorem mapGen_insert (x : SlotEntry) (l : List SlotEntry) (n : Nat) :
    mapGen (insertEntry x l) n = if x.slot = n then x.gen else mapGen l n := by
  unfold mapGen; rw [insertEntry_find]
  by_cases h : x.slot = n
  · rw [if_pos h, if_pos h]
  · rw [if_neg h, if_neg h]

theorem mapGen_move (src dst : Nat) (l : List SlotEntry) (n : Nat) : mapGen (movePage src dst l) n = mapGen l n := by
  unfold mapGen; rw [movePage_find]
  cases h : l.find? fun e => e.slot == n with
  | none => rfl
  | some e => simp only [Option.map_some]; split <;> rfl

/-- A slot's generation is as it was, or one above. -/
def mapRises (old new : List SlotEntry) : Prop := ∀ n, mapGen new n = mapGen old n ∨ mapGen new n = mapGen old n + 1#32

theorem mapRises.refl (l : List SlotEntry) : mapRises l l := fun _ => .inl rfl

theorem mapRises.insert (l : List SlotEntry) (slot page : Nat) :
    mapRises l (insertEntry { slot := slot, page := page, gen := mapGen l slot + 1#32 } l) := fun n => by
  rw [mapGen_insert]; split
  · rename_i h; right; simp only at h ⊢; rw [h]
  · left; rfl

theorem mapRises.move (src dst : Nat) (l : List SlotEntry) : mapRises l (movePage src dst l) :=
  fun n => .inl (mapGen_move src dst l n)

/-! ### The ends of the store's operations -/

/-- What an end of a store operation does to the fixed part. -/
structure StoreStep (s t : State) : Prop where
  fixed : t.fixed = { s.fixed with mem := t.store.mem, map := t.store.map }
  wf    : Memory.wf s.store.mem = true → Memory.wf t.store.mem = true
  gens  : mapRises s.store.map t.store.map

theorem StoreStep.refl (s : State) : StoreStep s s := ⟨rfl, id, mapRises.refl _⟩

/-- A step that sets the cells and the map, followed by work that leaves both alone. -/
theorem StoreStep.of (s u t : State) (m : List Host.Cell) (l : List SlotEntry)
    (hu : u.fixed = { s.fixed with mem := m, map := l }) (ht : t.fixed = u.fixed)
    (hm : Memory.wf s.store.mem = true → Memory.wf m = true) (hl : mapRises s.store.map l) : StoreStep s t := by
  have h := ht.trans hu
  have h1 : t.store.mem = m := congrArg Fixed.mem h
  have h2 : t.store.map = l := congrArg Fixed.map h
  refine ⟨?_, ?_, ?_⟩
  · rw [h, h1, h2]
  · rw [h1]; exact hm
  · rw [h2]; exact hl

theorem State.mapStore_fixed' (s : State) (f : Store → Store) :
    (s.mapStore f).fixed = { s.fixed with mem := (f s.store).mem, map := (f s.store).map } := rfl

theorem State.commitJob_fixed (s : State) (j : WriteJob) (p : Nat) :
    (s.commitJob j p).fixed =
      { s.fixed with map := insertEntry { slot := j.slot, page := p, gen := s.store.gen j.slot + 1#32 } s.store.map } := by
  unfold State.commitJob; dsimp only
  rw [State.endJob_fixed]
  split
  · rw [State.verifierGone_fixed]; simp [State.fixed]
  · simp [State.fixed]

theorem State.programDone_step (s : State) (p : Nat) (b : Bytes) (bad : Option Bytes) : StoreStep s (s.programDone p b bad) := by
  unfold State.programDone; dsimp only; split
  · exact StoreStep.refl s
  · split
    · rename_i t _ h
      refine StoreStep.of s _ _ (Mem.setPage s.store.mem p (programmed b bad)) _ (State.commitJob_fixed _ _ _) rfl ?_ ?_
      · exact Mem.setPage_wf _ _ _
      · exact mapRises.insert _ _ _
    · refine StoreStep.of s _ _ (Mem.setPage s.store.mem p (programmed b bad)) s.store.map ?_ rfl (Mem.setPage_wf _ _ _)
        (mapRises.refl _)
      simp [State.mapStore_fixed']

theorem State.voidDone_step (s : State) (p : Nat) (bad : Option Word) : StoreStep s (s.voidDone p bad) := by
  unfold State.voidDone; dsimp only; split
  · exact StoreStep.refl s
  · refine StoreStep.of s (s.mapStore fun st => { st with mem := voidGen st.mem p bad, op := none }.fillIfFull (blockOf p)) _
      (voidGen s.store.mem p bad) s.store.map ?_ ?_ (voidGen_wf _ _ _) (mapRises.refl _)
    · simp [State.mapStore_fixed']
    · split <;> simp

theorem State.copyVoidDone_step (s : State) (p : Nat) (bad : Option Word) : StoreStep s (s.copyVoidDone p bad) :=
  StoreStep.of s (s.mapStore fun st => { st with mem := voidGen st.mem p bad, op := none }) _
    (voidGen s.store.mem p bad) s.store.map rfl (State.copyNext_fixed _) (voidGen_wf _ _ _) (mapRises.refl _)

theorem State.copyDone_step (s : State) (src dst : Nat) (b : Bytes) (bad : Option Bytes) :
    StoreStep s (s.copyDone src dst b bad) := by
  unfold State.copyDone; dsimp only; split
  · refine StoreStep.of s _ _ (Mem.setPage s.store.mem dst (programmed b bad)) (movePage src dst s.store.map) ?_
      (State.copyNext_fixed _) (Mem.setPage_wf _ _ _) (mapRises.move _ _ _)
    simp [State.fixed]
  · refine StoreStep.of s _ _ (Mem.setPage s.store.mem dst (programmed b bad)) s.store.map ?_ rfl (Mem.setPage_wf _ _ _)
      (mapRises.refl _)
    simp [State.mapStore_fixed']

theorem State.eraseDone_step (s : State) (b : Nat) (l : List (Nat × Byte)) : StoreStep s (s.eraseDone b l) := by
  unfold State.eraseDone; dsimp only
  refine StoreStep.of s (s.mapStore fun st => { st with mem := Mem.eraseBlock st.mem b l, op := none, comp := none }) _
    (Mem.eraseBlock s.store.mem b l) s.store.map rfl ?_ (Mem.eraseBlock_wf _ _ _) (mapRises.refl _)
  split
  · simp
  · simp

theorem StoreStep.settle {s t : State} (h : StoreStep s t) : StoreStep s t.settle :=
  StoreStep.of s t _ t.store.mem t.store.map h.fixed (State.settle_fixed t) h.wf h.gens

theorem execPageProgramDone_step (bad : Option Bytes) (s : State) : (execPageProgramDone bad s).all (StoreStep s) := by
  unfold execPageProgramDone; split
  · exact (State.programDone_step s _ _ _).settle
  · exact StoreStep.refl s

theorem execPageVoidDone_step (bad : Option Word) (s : State) : (execPageVoidDone bad s).all (StoreStep s) := by
  unfold execPageVoidDone; split
  · exact (State.voidDone_step s _ _).settle
  · exact (State.copyVoidDone_step s _ _).settle
  · exact StoreStep.refl s

theorem execCopyProgramDone_step (bad : Option Bytes) (s : State) : (execCopyProgramDone bad s).all (StoreStep s) := by
  unfold execCopyProgramDone; split
  · exact (State.copyDone_step s _ _ _ _).settle
  · exact StoreStep.refl s

theorem execBlockEraseDone_step (l : List (Nat × Byte)) (s : State) : (execBlockEraseDone l s).all (StoreStep s) := by
  unfold execBlockEraseDone; split
  · exact (State.eraseDone_step s _ _).settle
  · exact StoreStep.refl s

theorem execRecoveryEraseDone_step (l : List (Nat × Byte)) (s : State) :
    (execRecoveryEraseDone l s).all (StoreStep s) := by
  unfold execRecoveryEraseDone; split
  · exact (State.eraseDone_step s _ _).settle
  · exact StoreStep.refl s

/-! ### The ends of the one-time array's steps -/

theorem byteAt_set (l : Bytes) (i j : Nat) (v : Byte) :
    byteAt (setAt l i v) j = if i = j ∧ i < l.length then v else byteAt l j := by
  unfold byteAt setAt
  rw [List.getD_eq_getElem?_getD, List.getElem?_set, List.getD_eq_getElem?_getD]
  by_cases h : i = j
  · subst h
    by_cases hl : i < l.length
    · simp [hl]
    · simp [hl]
  · simp [h]

theorem noneRises.refl (a : Bytes) : noneRises a a := fun i => by ext; simp

theorem progByte_falls (old i k : Byte) : progByte old i k &&& ~~~ old = 0#8 := by
  unfold progByte; ext; simp; intro h _; exact h

theorem noneRises.prog (l : Bytes) (p : Nat) (i k : Byte) : noneRises l (setAt l p (progByte (byteAt l p) i k)) := fun j => by
  rw [byteAt_set]; split
  · rename_i h; rw [← h.1]; exact progByte_falls _ _ _
  · exact noneRises.refl l j

theorem clearBit_falls {w : Nat} (v : BitVec w) (i : Nat) (ok : Bool) : clearBit v i ok &&& ~~~ v = 0#w := by
  unfold clearBit; split
  · ext; simp; intro h _; exact h
  · ext; simp

theorem andNot_self {w : Nat} (v : BitVec w) : v &&& ~~~ v = 0#w := by ext; simp

theorem RootCells.onlyFalls_refl (r : RootCells) : r.onlyFalls r := ⟨noneRises.refl _, andNot_self _⟩

theorem RootCells.prog_falls (r : RootCells) (p : Nat) (i k : Byte) : r.onlyFalls (r.prog p i k) := by
  unfold RootCells.prog; split
  · exact ⟨noneRises.prog _ _ _ _, andNot_self _⟩
  · exact ⟨noneRises.refl _, progByte_falls _ _ _⟩

theorem roots_refl (l : List RootCells) :
    l.length = l.length ∧ ∀ (i : Nat) (a b : RootCells), l[i]? = some a → l[i]? = some b → a.onlyFalls b :=
  ⟨rfl, fun i a b h h' => by rw [h] at h'; cases h'; exact RootCells.onlyFalls_refl a⟩

theorem Cells.OnlyProgrammed.refl (c : Cells) : Cells.OnlyProgrammed c c :=
  { page0 := noneRises.refl _, seed := noneRises.refl _, seedCompl := noneRises.refl _, keysMarker := andNot_self _,
    roots := roots_refl _, loader := andNot_self _, system := andNot_self _, radio := andNot_self _,
    ownerEpoch := andNot_self _, retired := andNot_self _, locks := andNot_self _ }

theorem Cells.prog_falls (c : Cells) (op : OtaOp) (p : Nat) (i k : Byte) : c.OnlyProgrammed (c.prog op p i k) := by
  have r := Cells.OnlyProgrammed.refl c
  unfold Cells.prog; split
  · exact { r with page0 := noneRises.prog _ _ _ _ }
  · split
    · exact { r with seed := noneRises.prog _ _ _ _ }
    · split
      · exact { r with seedCompl := noneRises.prog _ _ _ _ }
      · exact { r with keysMarker := progByte_falls _ _ _ }
  · refine { r with roots := ⟨by simp, fun n a b ha hb => ?_⟩ }
    rw [List.getElem?_modify, ha] at hb
    injection hb with hb
    subst hb
    split
    · exact RootCells.prog_falls _ _ _ _
    · exact RootCells.onlyFalls_refl _
  all_goals exact r

theorem Cells.clearCounter_falls (c : Cells) (k : Counter) (i : Nat) (ok : Bool) : c.OnlyProgrammed (c.clearCounter k i ok) := by
  have r := Cells.OnlyProgrammed.refl c
  cases k
  · exact { r with loader := clearBit_falls _ _ _ }
  · exact { r with system := clearBit_falls _ _ _ }
  · exact { r with radio := clearBit_falls _ _ _ }
  · exact { r with ownerEpoch := clearBit_falls _ _ _ }

theorem Cells.retire_falls (c : Cells) (b : Nat) (ok : Bool) :
    c.OnlyProgrammed { c with retired := clearBit c.retired b ok } :=
  { Cells.OnlyProgrammed.refl c with retired := clearBit_falls _ _ _ }

theorem Cells.lock_falls (c : Cells) (n : Nat) (ok : Bool) :
    c.OnlyProgrammed { c with locks := if ok then c.locks ||| (1#5 <<< n) else c.locks } := by
  refine { Cells.OnlyProgrammed.refl c with locks := ?_ }
  split
  · ext i; simp; intro h h'; simp [h] at h'
  · exact andNot_self _

/-- What an end of a one-time array step does to the fixed part. -/
structure OtaStep (s t : State) : Prop where
  fixed : t.fixed = { s.fixed with cells := t.ota.cells }
  cells : s.ota.cells.OnlyProgrammed t.ota.cells

theorem OtaStep.refl (s : State) : OtaStep s s := ⟨rfl, Cells.OnlyProgrammed.refl _⟩

theorem OtaStep.of (s u t : State) (c : Cells) (hu : u.fixed = { s.fixed with cells := c }) (ht : t.fixed = u.fixed)
    (hc : s.ota.cells.OnlyProgrammed c) : OtaStep s t := by
  have h := ht.trans hu
  have h1 : t.ota.cells = c := congrArg Fixed.cells h
  exact ⟨by rw [h, h1], by rw [h1]; exact hc⟩

theorem OtaStep.settle {s t : State} (h : OtaStep s t) : OtaStep s t.settle :=
  OtaStep.of s t _ t.ota.cells h.fixed (State.settle_fixed t) h.cells

theorem State.byteProgrammed_step (s : State) (op : OtaOp) (p : Nat) (k : Byte) : OtaStep s (s.byteProgrammed op p k) := by
  unfold State.byteProgrammed; dsimp only; split
  · exact OtaStep.refl s
  · rename_i v _
    refine OtaStep.of s (s.mapOta fun o => { o with cells := o.cells.prog op p v k }) _ _ rfl ?_ (Cells.prog_falls _ _ _ _ _)
    repeat' split
    all_goals simp

theorem State.counterProgrammed_step (s : State) (k : Counter) (x : Nat) (f : AdvanceFor) (p : Nat) (ok : Bool) :
    OtaStep s (s.counterProgrammed k x f p ok) := by
  unfold State.counterProgrammed; dsimp only
  refine OtaStep.of s (s.mapOta fun o => { o with cells := o.cells.clearCounter k p ok }) _ _ rfl ?_
    (Cells.clearCounter_falls _ _ _ _)
  repeat' split
  all_goals simp

theorem State.lockProgrammed_step (s : State) (p : Nat) (ok : Bool) : OtaStep s (s.lockProgrammed p ok) := by
  unfold State.lockProgrammed; dsimp only
  refine OtaStep.of s (s.mapOta fun o =>
    { o with cells := { o.cells with locks := if ok then o.cells.locks ||| (1#5 <<< (2 - p)) else o.cells.locks } }) _ _ rfl ?_
    (Cells.lock_falls _ _ _)
  repeat' split
  all_goals simp

theorem State.retireProgrammed_step (s : State) (b : Nat) (ok : Bool) : OtaStep s (s.retireProgrammed b ok) := by
  unfold State.retireProgrammed; dsimp only
  exact OtaStep.of s (s.mapOta fun o =>
    { o with cells := { o.cells with retired := clearBit o.cells.retired b ok }, current := none }) _ _ rfl
    (State.retireEnded_fixed _ _ _) (Cells.retire_falls _ _ _)

theorem execOtaByteProgrammed_step (k : Byte) (s : State) : (execOtaByteProgrammed k s).all (OtaStep s) := by
  unfold execOtaByteProgrammed; split
  all_goals first | exact (State.byteProgrammed_step s _ _ _).settle | exact OtaStep.refl s

theorem execCounterBitProgrammed_step (ok : Bool) (s : State) : (execCounterBitProgrammed ok s).all (OtaStep s) := by
  unfold execCounterBitProgrammed; split
  · exact (State.counterProgrammed_step s _ _ _ _ _).settle
  · exact OtaStep.refl s

theorem execLockBitProgrammed_step (ok : Bool) (s : State) : (execLockBitProgrammed ok s).all (OtaStep s) := by
  unfold execLockBitProgrammed; split
  · exact (State.lockProgrammed_step s _ _).settle
  · exact OtaStep.refl s

theorem execRetireBitProgrammed_step (ok : Bool) (s : State) : (execRetireBitProgrammed ok s).all (OtaStep s) := by
  unfold execRetireBitProgrammed; split
  · exact (State.retireProgrammed_step s _ _).settle
  · exact OtaStep.refl s

theorem Ota.afterCut_falls (o : Ota) (cut : Cut) : o.cells.OnlyProgrammed (o.afterCut cut) := by
  unfold Ota.afterCut; dsimp only
  repeat' split
  all_goals first
    | exact Cells.OnlyProgrammed.refl _
    | exact Cells.clearCounter_falls _ _ _ _
    | exact Cells.retire_falls _ _ _
    | exact Cells.prog_falls _ _ _ _ _
    | (refine { Cells.OnlyProgrammed.refl o.cells with locks := ?_ }; ext i; simp; try (intro h h'; simp [h] at h'))

/-! ### Extensions, releases, restarts, resets, the clock and the load -/

/-- A completed extension stores the lane's value and appends one entry; nothing else of the fixed part changes, but for the
boot lanes, which may close (R136, R138). -/
theorem State.extendEnded_fixed (s : State) (ch : Chan) (lane : Nat) (v d l : Bytes) (src : Source) :
    ∃ o : Bool, (o = true → s.meas.bootOpen = true) ∧
      (s.extendEnded ch lane v d l src).fixed =
        { s.fixed with meas := { lanes := setAt s.meas.lanes lane (extendOf v d),
                                 log := s.meas.log ++ [{ lane := lane, source := src, label := l, digest := d }],
                                 bootOpen := o } } := by
  have tail : ∀ u : State, (match src with
      | .part => u.partExtended
      | .recovery => (u.setWork .S .recoveryRelease).mapBoot fun bt => { bt with stage := .releaseReady .recovery none }
      | .supervisor | .application => u.reply ch .ok (byte (u.meas.log.length - 1) :: extendOf v d)).fixed = u.fixed := by
    intro u; cases src <;> simp
  have close : ∀ u : State, ∃ o : Bool, (o = true → u.meas.bootOpen = true) ∧
      (match u.boot.stage with
        | .releaseClosing _ _ => { u with meas := { u.meas with bootOpen := false } }
        | _ => u).fixed = { u.fixed with meas := { u.meas with bootOpen := o } } := by
    intro u
    cases u.boot.stage
    all_goals first
      | exact ⟨u.meas.bootOpen, id, rfl⟩
      | exact ⟨false, nofun, rfl⟩
  obtain ⟨o, ho, he⟩ := close (s.completeExtension lane (extendOf v d) d l src)
  exact ⟨o, ho, (tail _).trans (he.trans rfl)⟩

/-- EXTEND_JOB_END changes lanes and log alone, and the log only grows (R137, R138). -/
theorem execExtendJobEnd_all (s : State) :
    (execExtendJobEnd s).all fun t =>
      t.fixed = { s.fixed with meas := t.meas } ∧ s.meas.log <+: t.meas.log ∧ (t.meas.bootOpen = true → s.meas.bootOpen = true) := by
  have key : ∀ (t : State) (m : Meas), t.fixed = { s.fixed with meas := m } →
      s.meas.log <+: m.log → (m.bootOpen = true → s.meas.bootOpen = true) →
      t.fixed = { s.fixed with meas := t.meas } ∧ s.meas.log <+: t.meas.log ∧
        (t.meas.bootOpen = true → s.meas.bootOpen = true) := by
    intro t m h hl hb
    have h1 : t.meas = m := congrArg Fixed.meas h
    rw [h1]; exact ⟨h, hl, hb⟩
  unfold execExtendJobEnd; split
  · rename_i r _
    split
    · rename_i lane v d l src hj
      unfold State.jobEnd Result.all; dsimp only
      split
      · exact key _ s.meas ((State.settle_fixed _).trans rfl) (List.prefix_refl _) id
      · obtain ⟨o, ho, he⟩ :=
          State.extendEnded_fixed (s.mapEngine fun e => { e with running := none }) r.who.chan lane v d l src
        exact key _ _ ((State.settle_fixed _).trans he) (List.prefix_append _ _) ho
    · exact ⟨rfl, List.prefix_refl _, id⟩
  · exact ⟨rfl, List.prefix_refl _, id⟩

/-- A release changes the pin, the close of the boot lanes and channel A's grant set alone. -/
theorem State.finishRelease_fixed (s : State) (m : BootMode) (b : Option Bank) :
    (s.finishRelease m b).fixed =
      { s.fixed with hold := false, meas := { s.meas with bootOpen := false },
                     grantsA := BitVec.ofNat 6 s.settings.grantsA } := by
  unfold State.finishRelease; dsimp only
  rw [State.recoveryReply_fixed, State.raise_fixed]; rfl

/-- UPTIME_TICK changes the clock alone, by at most one second. -/
theorem execUptimeTick_all (s : State) :
    (execUptimeTick s).all fun t =>
      t.fixed = { s.fixed with uptime := t.owner.uptime } ∧
        (t.owner.uptime = s.owner.uptime ∨ t.owner.uptime = s.owner.uptime + 1) := by
  unfold execUptimeTick; dsimp only; split
  · split
    · have h := State.endGrant_fixed s
      refine ⟨?_, .inr ?_⟩
      · show ({ s.endGrant.fixed with uptime := s.endGrant.owner.uptime + 1 } : Fixed) = _
        rw [h]
      · exact congrArg (· + 1) (congrArg Fixed.uptime h)
    · exact ⟨rfl, .inr rfl⟩
  · exact ⟨rfl, .inl rfl⟩

/-- The undoing of an attempt changes the hold-off table alone. -/
theorem State.undoAttempt_table (s : State) : ∃ tb, s.undoAttempt = { s with owner := { s.owner with table := tb } } := by
  unfold State.undoAttempt; repeat' split
  all_goals exact ⟨_, rfl⟩

/-- What a restart does to the fixed part. -/
theorem State.restart_fixed (s : State) :
    s.restart.fixed =
      { s.fixed with hold := true, link := { s.link with line := s.link.line.closeA }, grantsA := 0#6,
                     meas := { lanes := List.replicate 8 zeros32, log := [], bootOpen := true } } := by
  unfold State.restart; dsimp only
  have h1 : ∀ u : State, u.enterPhase.fixed = { u.fixed with meas := { u.meas with bootOpen := true } } := fun _ => rfl
  have h2 : ∀ u : State, u.clearLanes.fixed =
      { u.fixed with meas := { u.meas with lanes := List.replicate 8 zeros32, log := [] } } := fun _ => rfl
  obtain ⟨tb, htb⟩ := s.undoAttempt_table
  rw [h1, State.mapChecker_fixed, h2, State.endGrant_fixed, htb]
  rfl

/-- What a reset leaves of the fixed part. -/
theorem State.resetAll_fixed (s : State) (p : Power) (g : Guard) (cut : Cut) :
    (s.resetAll p g cut).fixed =
      { power := p, rcv := s.rcv, hold := true, link := { line := .waitStart, ack := none, dataOut := [] }, guard := g,
        meas := Meas.reset, grantsS := 0#6, grantsA := 0#6, cells := s.ota.afterCut cut, mem := s.store.afterCut cut,
        map := [], uptime := 0, pending := s.pending } := rfl

theorem Store.scanSpare_mem (st : Store) (r : Option Nat) : (st.scanSpare r).mem = st.mem := by
  unfold Store.scanSpare; split <;> simp

theorem scanStore_mem (m : List Host.Cell) (r : BitVec 40) : (scanStore m r).store.mem = m := by
  unfold scanStore; dsimp only
  rw [Store.scanSpare_mem]; rfl

theorem Scan.recover_mem (x : Scan) : x.recover.mem = x.store.mem := by
  unfold Scan.recover; split <;> rfl

theorem State.loaded_fixed (s : State) :
    s.loaded.fixed =
      { s.fixed with power := .running, grantsS := 3#6, map := s.loaded.store.map, uptime := 0,
                     meas := { s.meas with bootOpen := true } } := by
  have h : s.loaded.store.mem = s.store.mem := (Scan.recover_mem _).trans (scanStore_mem _ _)
  show ({ s.loaded.fixed with mem := s.loaded.store.mem } : Fixed) = _
  rw [h]; rfl

end Sys2Proof.Machine
end

