-- ==== Sys2Proof/Laws/Start.lean ====
section
/-! SUPPORT. When each turn is due, what quietness depends on, and what work that is filed in a quiet state starts at once. -/
namespace Sys2Proof.Machine

/-! ### When a turn is not due -/

theorem State.nextChange_none (s : State) : s.nextChange = none ↔ s.boot.active.isSome = true ∨ s.boot.changes = [] := by
  unfold State.nextChange
  cases s.boot.active <;> cases s.boot.changes <;> simp

theorem State.fileWaiter_none (s : State) : s.fileWaiter = none ↔ s.store.waiters = [] ∨ 2 ≤ s.store.fifo.length := by
  unfold State.fileWaiter
  cases h : s.store.waiters with
  | nil => simp
  | cons w rest =>
    by_cases h2 : s.store.fifo.length < 2
    · simp only [h2, if_true]
      cases w <;> simp <;> omega
    · simp [h2]; omega

theorem State.storeTurn_none (s : State) :
    s.storeTurn = none ↔
      s.store.op.isSome = true ∨ s.store.comp.isSome = true ∨ (s.store.taken.isNone = true ∧ s.store.fifo = []) := by
  unfold State.storeTurn
  cases s.store.op <;> cases s.store.comp <;> cases s.store.taken <;> cases s.store.fifo <;> simp

theorem State.markTurn_none (s : State) : s.markTurn = none ↔ s.store.marksHeld = [] ∨ s.store.markOut = true := by
  unfold State.markTurn
  cases s.store.marksHeld <;> simp

theorem State.otaTurn_none (s : State) : s.otaTurn = none ↔ s.ota.current.isSome = true ∨ s.ota.queue = [] := by
  unfold State.otaTurn
  cases s.ota.current <;> cases s.ota.queue <;> simp

theorem State.checkTurn_none (s : State) :
    s.checkTurn = none ↔
      (s.checker.startWait && s.noLeftover && (s.checker.work == .boot || s.checker.claimed)) = false := by
  unfold State.checkTurn
  cases s.checker.startWait && s.noLeftover && (s.checker.work == .boot || s.checker.claimed) <;> simp

theorem State.grantEngine_none (s : State) :
    s.grantEngine = none ↔
      s.engine.running.isSome = true ∨ (s.engine.order.find? fun c => (s.engine.claim c).isSome) = none := by
  unfold State.grantEngine
  cases s.engine.running with
  | some r => simp
  | none =>
    cases h : s.engine.order.find? fun c => (s.engine.claim c).isSome with
    | none => simp
    | some who =>
      have := List.find?_some h
      simp only [Option.isSome_none, Bool.false_eq_true, reduceCtorEq, or_self, iff_false]
      cases h' : s.engine.claim who with
      | none => simp [h'] at this
      | some p =>
        dsimp only
        split <;> simp

theorem State.compactTurn_none (s : State) : s.compactTurn = none ↔ s.store.compactionDue = none := by
  unfold State.compactTurn
  cases s.store.compactionDue with
  | none => simp
  | some p => cases p; simp

/-- Quietness in terms of what the turns look at. -/
theorem State.quiet_iff_parts (s : State) :
    s.quiet = true ↔
      (s.boot.active.isSome = true ∨ s.boot.changes = []) ∧
      (s.store.waiters = [] ∨ 2 ≤ s.store.fifo.length) ∧
      (s.store.op.isSome = true ∨ s.store.comp.isSome = true ∨ (s.store.taken.isNone = true ∧ s.store.fifo = [])) ∧
      (s.store.marksHeld = [] ∨ s.store.markOut = true) ∧
      (s.ota.current.isSome = true ∨ s.ota.queue = []) ∧
      (s.checker.startWait && s.noLeftover && (s.checker.work == .boot || s.checker.claimed)) = false ∧
      (s.engine.running.isSome = true ∨ (s.engine.order.find? fun c => (s.engine.claim c).isSome) = none) ∧
      s.store.compactionDue = none := by
  rw [State.quiet_iff, State.nextChange_none, State.fileWaiter_none, State.storeTurn_none, State.markTurn_none,
    State.otaTurn_none, State.checkTurn_none, State.grantEngine_none, State.compactTurn_none]

/-- Quietness depends on these parts alone. -/
theorem State.quiet_congr {s t : State} (h1 : t.boot.active = s.boot.active) (h2 : t.boot.changes = s.boot.changes)
    (h3 : t.store = s.store) (h4 : t.ota.current = s.ota.current) (h5 : t.ota.queue = s.ota.queue)
    (h6 : t.checker = s.checker) (h7 : t.engine = s.engine) : t.quiet = s.quiet := by
  rw [Bool.eq_iff_iff, State.quiet_iff_parts, State.quiet_iff_parts]
  simp only [State.noLeftover, h1, h2, h3, h4, h5, h6, h7]

/-- A reply leaves a quiet state quiet. -/
@[simp] theorem State.reply_quiet (s : State) (ch : Chan) (st : Status) (body : Bytes) :
    (s.reply ch st body).quiet = s.quiet := by
  apply State.quiet_congr <;> cases ch <;> rfl

@[simp] theorem State.setWork_quiet (s : State) (ch : Chan) (w : Work) : (s.setWork ch w).quiet = s.quiet := by
  apply State.quiet_congr <;> cases ch <;> rfl

@[simp] theorem State.setHold_quiet (s : State) (x : HoldEntry) : (s.setHold x).quiet = s.quiet := by
  apply State.quiet_congr <;> rfl

@[simp] theorem State.useGrant_quiet (s : State) : s.useGrant.quiet = s.quiet := by
  apply State.quiet_congr <;> unfold State.useGrant <;> split <;> rfl

/-! ### A claim filed in a quiet state with a free engine -/

theorem Engine.free_iff (e : Engine) :
    e.free = true ↔ e.running = none ∧ e.claimS = none ∧ e.claimA = none ∧ e.claimF = none ∧
      Claimant.S ∈ e.order ∧ Claimant.A ∈ e.order ∧ Claimant.F ∈ e.order := by
  unfold Engine.free Engine.noClaim
  simp [and_assoc, Option.isNone_iff_eq_none]

theorem Engine.find_claim (e : Engine) (h : e.free = true) (who : Claimant) (p : Pending) :
    ((e.setClaim who (some p)).order.find? fun c => ((e.setClaim who (some p)).claim c).isSome) = some who := by
  rw [Engine.free_iff] at h
  obtain ⟨_, h1, h2, h3, m1, m2, m3⟩ := h
  have key : ∀ l : List Claimant, who ∈ l →
      (l.find? fun c => ((e.setClaim who (some p)).claim c).isSome) = some who := by
    intro l
    induction l with
    | nil => intro h; cases h
    | cons a l ih =>
      intro hm
      by_cases ha : a = who
      · subst ha
        rw [List.find?_cons_of_pos]
        cases a <;> simp [Engine.setClaim, Engine.claim]
      · rw [List.find?_cons_of_neg]
        · apply ih
          cases hm with
          | head => exact absurd rfl ha
          | tail _ h => exact h
        · cases a <;> cases who <;> simp_all [Engine.setClaim, Engine.claim]
  have hm : who ∈ e.order := by cases who <;> assumption
  have : (e.setClaim who (some p)).order = e.order := by cases who <;> rfl
  rw [this]
  exact key _ hm

theorem Engine.setClaim_setClaim (e : Engine) (h : e.free = true) (who : Claimant) (p : Pending) :
    (e.setClaim who (some p)).setClaim who none = e := by
  rw [Engine.free_iff] at h
  obtain ⟨_, h1, h2, h3, _⟩ := h
  cases e
  cases who <;> simp_all [Engine.setClaim]

/-- The turns before the grant are not due in a quiet state that files a claim. -/
theorem State.settle1_claim (s : State) (who : Claimant) (c : Claim) (q : s.quiet = true) (f : s.engine.free = true) :
    (s.fileClaim who c).settle1 = (s.fileClaim who c).grantEngine := by
  obtain ⟨a1, a2, a3, a4, a5, a6, a7, a8⟩ := (State.quiet_iff_parts s).1 q
  have e1 : (s.fileClaim who c).nextChange = none := (State.nextChange_none _).2 a1
  have e2 : (s.fileClaim who c).fileWaiter = none := (State.fileWaiter_none _).2 a2
  have e3 : (s.fileClaim who c).storeTurn = none := (State.storeTurn_none _).2 a3
  have e4 : (s.fileClaim who c).markTurn = none := (State.markTurn_none _).2 a4
  have e5 : (s.fileClaim who c).otaTurn = none := (State.otaTurn_none _).2 a5
  have e6 : (s.fileClaim who c).checkTurn = none := by
    rw [State.checkTurn_none]
    rw [Engine.free_iff] at f
    obtain ⟨f0, f1, f2, f3, _⟩ := f
    have hn : s.noLeftover = s.checker.flash.isNone := by simp [State.noLeftover, f0, f3]
    rw [hn] at a6
    cases who <;> simp_all [State.noLeftover, State.fileClaim, Engine.setClaim]
  have e8 : (s.fileClaim who c).compactTurn = none := (State.compactTurn_none _).2 a8
  unfold State.settle1
  rw [e1, e2, e3, e4, e5, e6, e8]
  cases (s.fileClaim who c).grantEngine <;> rfl

/-- The grant of a claim filed in a quiet state: what the filing block gathers decides. -/
theorem State.grantEngine_claim (s : State) (who : Claimant) (c : Claim) (f : s.engine.free = true) :
    (s.fileClaim who c).grantEngine =
      match s.gather who.chan c with
      | (some j, t) => some (t.mapEngine fun e => e.runs who j)
      | (none, t) => some t := by
  have h0 := (Engine.free_iff _).1 f
  have hr : (s.fileClaim who c).engine.running = none := by
    unfold State.fileClaim; cases who <;> simp [Engine.setClaim, h0.1]
  unfold State.grantEngine
  rw [hr]
  dsimp only
  have hf : ((s.fileClaim who c).engine.order.find? fun x => ((s.fileClaim who c).engine.claim x).isSome) = some who :=
    Engine.find_claim s.engine f who _
  rw [hf]
  dsimp only
  have hc : (s.fileClaim who c).engine.claim who = some { claim := c, dropped := false } := by
    unfold State.fileClaim; cases who <;> rfl
  rw [hc]
  dsimp only
  have hs : (s.fileClaim who c).mapEngine (fun e => e.setClaim who none) = s := by
    unfold State.fileClaim State.mapEngine
    dsimp only
    rw [Engine.setClaim_setClaim s.engine f who]
  rw [hs]
  rfl

/-- The engine runs a job: no further turn is due in a state that was quiet. -/
theorem State.runs_quiet (s : State) (who : Claimant) (j : Job) (q : s.quiet = true) (f : s.engine.free = true) :
    (s.mapEngine fun e => e.runs who j).quiet = true := by
  obtain ⟨a1, a2, a3, a4, a5, a6, a7, a8⟩ := (State.quiet_iff_parts s).1 q
  rw [Engine.free_iff] at f
  obtain ⟨f0, f1, f2, f3, _⟩ := f
  rw [State.quiet_iff_parts]
  refine ⟨a1, a2, a3, a4, a5, ?_, Or.inl rfl, a8⟩
  have hn : s.noLeftover = s.checker.flash.isNone := by simp [State.noLeftover, f0, f3]
  rw [hn] at a6
  show (s.checker.startWait && (s.mapEngine fun e => e.runs who j).noLeftover
    && (s.checker.work == .boot || s.checker.claimed)) = false
  have hm : (s.mapEngine fun e => e.runs who j).noLeftover = (s.checker.flash.isNone && !(who == .F)) := by
    simp [State.noLeftover, State.mapEngine, Engine.runs, f3]
  rw [hm]
  cases h1 : s.checker.startWait <;> cases h2 : s.checker.flash <;> simp_all

/-- A claim filed in a quiet state with a free engine whose job can run: the engine runs it. -/
theorem State.settle_claim (s : State) (who : Claimant) (c : Claim) (j : Job) (q : s.quiet = true)
    (f : s.engine.free = true) (g : s.gather who.chan c = (some j, s)) :
    (s.fileClaim who c).settle = { s with engine := s.engine.runs who j } := by
  apply State.settle_one
  · rw [State.settle1_claim s who c q f, State.grantEngine_claim s who c f, g]; rfl
  · exact State.runs_quiet s who j q f

/-- The same where gathering changes the state in parts that no turn looks at. -/
theorem State.settle_claim' (s t : State) (who : Claimant) (c : Claim) (j : Job) (q : s.quiet = true)
    (f : s.engine.free = true) (g : s.gather who.chan c = (some j, t)) (qt : t.quiet = true) (e : t.engine = s.engine) :
    (s.fileClaim who c).settle = { t with engine := s.engine.runs who j } := by
  apply State.settle_one
  · rw [State.settle1_claim s who c q f, State.grantEngine_claim s who c f, g]
    show some _ = some _
    rw [← e]; rfl
  · have := State.runs_quiet t who j qt (by rw [e]; exact f)
    rw [← e]; exact this

/-- A claim filed in a quiet state with a free engine that ends without a job. -/
theorem State.settle_claim_ends (s t : State) (who : Claimant) (c : Claim) (q : s.quiet = true)
    (f : s.engine.free = true) (g : s.gather who.chan c = (none, t)) (qt : t.quiet = true) :
    (s.fileClaim who c).settle = t := by
  apply State.settle_one _ qt
  rw [State.settle1_claim s who c q f, State.grantEngine_claim s who c f, g]

/-! ### A write job filed in a quiet state with an idle store -/

theorem Store.idle_iff (st : Store) :
    st.idle = true ↔ st.taken = none ∧ st.op = none ∧ st.comp = none ∧ st.fifo = [] ∧ st.waiters = [] ∧
      st.degraded = false := by
  unfold Store.idle Store.ready
  simp [and_assoc, Option.isNone_iff_eq_none]

/-- A job waits for a place, and gets one. -/
theorem State.settle1_job (s : State) (j : WriteJob) (q : s.quiet = true) (f : s.store.idle = true) :
    (s.fileJob j).settle1 = some { s with store := { s.store with fifo := [j] } } := by
  obtain ⟨a1, _⟩ := (State.quiet_iff_parts s).1 q
  obtain ⟨_, _, _, f4, f5, _⟩ := (Store.idle_iff _).1 f
  have e1 : (s.fileJob j).nextChange = none := (State.nextChange_none _).2 a1
  have e2 : (s.fileJob j).fileWaiter = some { s with store := { s.store with fifo := [j] } } := by
    obtain ⟨_, _, _, _, _, _, _, _, _, _, _, _, _, st, _⟩ := s
    cases st
    simp_all [State.fileWaiter, State.fileJob, State.mapStore]
  unfold State.settle1
  rw [e1, e2]
  rfl

/-- The job is taken. -/
theorem State.settle1_take (s : State) (j : WriteJob) (q : s.quiet = true) (f : s.store.idle = true) :
    ({ s with store := { s.store with fifo := [j] } } : State).settle1 =
      some (({ s with store := { s.store with fifo := [j] } } : State).takeJob j []) := by
  obtain ⟨a1, _⟩ := (State.quiet_iff_parts s).1 q
  obtain ⟨f1, f2, f3, f4, f5, _⟩ := (Store.idle_iff _).1 f
  have e1 : ({ s with store := { s.store with fifo := [j] } } : State).nextChange = none := (State.nextChange_none _).2 a1
  have e2 : ({ s with store := { s.store with fifo := [j] } } : State).fileWaiter = none :=
    (State.fileWaiter_none _).2 (Or.inl f5)
  have e3 : ({ s with store := { s.store with fifo := [j] } } : State).storeTurn =
      some (({ s with store := { s.store with fifo := [j] } } : State).takeJob j []) := by
    simp [State.storeTurn, f1, f2, f3]
  unfold State.settle1
  rw [e1, e2, e3]
  rfl

/-- The state with a job taken in an idle store. -/
def State.tookJob (s : State) (j : WriteJob) : State :=
  { s with store := { s.store with fifo := [], taken := some { job := j, attempts := 0 } } }

/-- A taken job that has passed its checks finds its page. -/
theorem State.settle1_seek (s : State) (j : WriteJob) (st : Store) (p : Nat) (q : s.quiet = true) (f : s.store.idle = true)
    (h : s.store.place = some (st, p)) :
    (s.tookJob j).settle1 = some { s with store := st.writes j p } := by
  obtain ⟨a1, _⟩ := (State.quiet_iff_parts s).1 q
  obtain ⟨f1, f2, f3, f4, f5, f6⟩ := (Store.idle_iff _).1 f
  have e1 : (s.tookJob j).nextChange = none := (State.nextChange_none _).2 a1
  have e2 : (s.tookJob j).fileWaiter = none := (State.fileWaiter_none _).2 (Or.inl f5)
  have e3 : (s.tookJob j).storeTurn = some { s with store := st.writes j p } := by
    have : (s.tookJob j).storeTurn = some ((s.tookJob j).seekPage j) := by
      simp [State.storeTurn, State.tookJob, f2, f3]
    rw [this]
    congr 1
    unfold State.seekPage
    have hd : (s.tookJob j).store.degraded = false := f6
    rw [hd]
    have ho : (s.tookJob j).store.openPage = s.store.openPage := rfl
    have hb : (s.tookJob j).store.firstBlock .free = s.store.firstBlock .free := rfl
    rw [ho, hb]
    unfold Store.place at h
    cases h1 : s.store.openPage with
    | some p' =>
      rw [h1] at h
      simp only [Option.some.injEq, Prod.mk.injEq] at h
      obtain ⟨h3, h4⟩ := h
      subst h3 h4
      obtain ⟨_, _, _, _, _, _, _, _, _, _, _, _, _, st, _⟩ := s
      cases st
      simp_all [State.tookJob, State.startProgram, Store.writes, State.mapStore, Store.gen, Store.entry]
    | none =>
      rw [h1] at h
      cases h2 : s.store.firstBlock .free with
      | none => rw [h2] at h; cases h
      | some b =>
        rw [h2] at h
        simp only [Option.some.injEq, Prod.mk.injEq] at h
        obtain ⟨h3, h4⟩ := h
        subst h3 h4
        obtain ⟨_, _, _, _, _, _, _, _, _, _, _, _, _, st, _⟩ := s
        cases st
        simp_all [State.tookJob, State.startProgram, Store.writes, State.mapStore, Store.gen, Store.entry, Store.setBlock]
  unfold State.settle1
  rw [e1, e2, e3]
  rfl

/-- What a place leaves of the store. -/
theorem Store.place_keeps {st st' : Store} {p : Nat} (h : st.place = some (st', p)) :
    st'.waiters = st.waiters ∧ st'.fifo = st.fifo ∧ st'.marksHeld = st.marksHeld ∧ st'.markOut = st.markOut := by
  unfold Store.place at h
  split at h <;> simp only [Option.some.injEq, Prod.mk.injEq, reduceCtorEq] at h <;> obtain ⟨h, _⟩ := h <;> subst h <;>
    exact ⟨rfl, rfl, rfl, rfl⟩

/-- Nothing more is due once the program has begun. -/
theorem State.writes_quiet (s : State) (j : WriteJob) (st : Store) (p : Nat) (q : s.quiet = true) (f : s.store.idle = true)
    (h : s.store.place = some (st, p)) : ({ s with store := st.writes j p } : State).quiet = true := by
  obtain ⟨a1, a2, a3, a4, a5, a6, a7, a8⟩ := (State.quiet_iff_parts s).1 q
  obtain ⟨f1, f2, f3, f4, f5, f6⟩ := (Store.idle_iff _).1 f
  obtain ⟨k1, k2, k3, k4⟩ := Store.place_keeps h
  rw [State.quiet_iff_parts]
  refine ⟨a1, Or.inl ?_, Or.inl rfl, ?_, a5, a6, a7, ?_⟩
  · show st.waiters = []; rw [k1, f5]
  · show st.marksHeld = [] ∨ st.markOut = true; rw [k3, k4]; exact a4
  · simp [Store.compactionDue, Store.ready, Store.writes]

/-- What the take of a job does in an idle store: the checks, the judgments, or the job's end. -/
theorem State.takeJob_idle (s : State) (j : WriteJob) :
    ({ s with store := { s.store with fifo := [j] } } : State).takeJob j [] =
      match s.store.takeCheck s.guard j with
      | some o => (s.tookJob j).endJob o
      | none =>
        match (s.tookJob j).judgeTake j with
        | (some o, t) => t.endJob o
        | (none, t) => t := rfl

/-- A job filed in a quiet state with an idle store, which passes its checks and finds its page: its program begins. `t` is the
state after the judgments at the take, which move the owner grant's last use at most. -/
theorem State.settle_job (s t : State) (j : WriteJob) (st : Store) (p : Nat) (q : s.quiet = true) (f : s.store.idle = true)
    (h : s.store.place = some (st, p)) (hc : s.store.takeCheck s.guard j = none)
    (hj : (s.tookJob j).judgeTake j = (none, t.tookJob j)) (qt : t.quiet = true) (et : t.store = s.store) :
    (s.fileJob j).settle = { t with store := st.writes j p } := by
  have ht : ({ s with store := { s.store with fifo := [j] } } : State).takeJob j [] = t.tookJob j := by
    rw [State.takeJob_idle, hc, hj]
  have f' : t.store.idle = true := by rw [et]; exact f
  have h' : t.store.place = some (st, p) := by rw [et]; exact h
  refine State.settle_three (State.settle1_job s j q f) (u := t.tookJob j) ?_ (State.settle1_seek t j st p qt f' h')
    (State.writes_quiet t j st p qt f' h')
  rw [State.settle1_take s j q f, ht]

/-- A job filed in a quiet state with an idle store that fails a check at its take. -/
theorem State.settle_job_ends (s t u : State) (j : WriteJob) (o : JobEnd) (q : s.quiet = true) (f : s.store.idle = true)
    (hj : ({ s with store := { s.store with fifo := [j] } } : State).takeJob j [] = t.endJob o)
    (he : t.endJob o = u) (qu : u.quiet = true) : (s.fileJob j).settle = u := by
  refine State.settle_two (State.settle1_job s j q f) ?_ qu
  rw [State.settle1_take s j q f, hj, he]

/-! ### An OTA operation and a boot record change filed in a quiet state -/

/-- An OTA operation filed in a quiet state with a free controller is taken. -/
theorem State.settle1_ota (s : State) (op : OtaOp) (q : s.quiet = true) (f : s.ota.current = none) :
    (s.fileOta op).settle1 = some (s.takeOta op) := by
  obtain ⟨a1, a2, a3, a4, a5, _⟩ := (State.quiet_iff_parts s).1 q
  have hq : s.ota.queue = [] := by simpa [f] using a5
  have e1 : (s.fileOta op).nextChange = none := (State.nextChange_none _).2 a1
  have e2 : (s.fileOta op).fileWaiter = none := (State.fileWaiter_none _).2 a2
  have e3 : (s.fileOta op).storeTurn = none := (State.storeTurn_none _).2 a3
  have e4 : (s.fileOta op).markTurn = none := (State.markTurn_none _).2 a4
  have e5 : (s.fileOta op).otaTurn = some (s.takeOta op) := by
    have h : (s.fileOta op).otaTurn = some (({ s with ota := { s.ota with queue := [] } } : State).takeOta op) := by
      simp [State.otaTurn, State.fileOta, f, hq, State.mapOta]
    rw [h]
    have : ({ s with ota := { s.ota with queue := [] } } : State) = s := by
      obtain ⟨_, _, _, _, _, _, _, _, ota, _, _, _, _, _, _, _⟩ := s
      cases ota
      simp_all
    rw [this]
  unfold State.settle1
  rw [e1, e2, e3, e4, e5]
  rfl

/-- An operation of the OTA controller in progress: nothing further is due in a state that was quiet. -/
theorem State.otaAt_quiet (s : State) (op : OtaOp) (pos : Nat) (q : s.quiet = true) : (s.otaAt op pos).quiet = true := by
  obtain ⟨a1, a2, a3, a4, a5, a6, a7, a8⟩ := (State.quiet_iff_parts s).1 q
  rw [State.quiet_iff_parts]
  exact ⟨a1, a2, a3, a4, Or.inl rfl, a6, a7, a8⟩

/-- An OTA operation filed in a quiet state that begins at a position. -/
theorem State.settle_ota (s : State) (op : OtaOp) (pos : Nat) (q : s.quiet = true) (f : s.ota.current = none)
    (h : s.takeOta op = s.otaAt op pos) : (s.fileOta op).settle = s.otaAt op pos := by
  refine State.settle_one (t := s.otaAt op pos) ?_ (State.otaAt_quiet s op pos q)
  rw [State.settle1_ota s op q f, h]

/-- A boot record change asked for in a quiet state with none outstanding, an idle store and a page: its program begins. -/
theorem State.settle_change (s : State) (c : Change) (st : Store) (p : Nat) (q : s.quiet = true) (f : s.store.idle = true)
    (ha : s.boot.active = none) (hb : s.commitBelowFloor c = false) (h : s.store.place = some (st, p))
    (hc : s.store.gen 255 ≠ 0xFFFFFFFF#32) : (s.ask c).settle = s.runsChange c st p := by
  have q' := (State.quiet_iff_parts s).1 q
  obtain ⟨a1, a2, a3, a4, a5, a6, a7, a8⟩ := q'
  have hch : s.boot.changes = [] := by simpa [ha] using a1
  have f' := (Store.idle_iff _).1 f
  obtain ⟨f1, f2, f3, f4, f5, f6⟩ := f'
  let m : State := { s with boot := { s.boot with active := some { asked := { change := c, live := true }, built := none } } }
  let m' : State :=
    { s with boot := { s.boot with active := some { asked := { change := c, live := true },
                                                    built := some (s.boot.record.apply c) } } }
  have qm : m'.quiet = true := by
    rw [State.quiet_iff_parts]
    exact ⟨Or.inl rfl, a2, a3, a4, a5, a6, a7, a8⟩
  have t1 : (s.ask c).settle1 = some { m with store := { s.store with waiters := [.boot] } } := by
    have e1 : (s.ask c).nextChange = some { m with store := { s.store with waiters := [.boot] } } := by
      obtain ⟨_, _, _, _, _, _, _, _, _, _, _, _, _, _, boot, _⟩ := s
      cases boot
      simp_all [State.nextChange, State.ask, State.mapBoot, State.mapStore, m]
    unfold State.settle1
    rw [e1]; rfl
  have t2 : ({ m with store := { s.store with waiters := [.boot] } } : State).settle1 =
      some { m' with store := { s.store with fifo := [bootJob c (s.boot.record.apply c)] } } := by
    have e1 : ({ m with store := { s.store with waiters := [.boot] } } : State).nextChange = none :=
      (State.nextChange_none _).2 (Or.inl rfl)
    have e2 : ({ m with store := { s.store with waiters := [.boot] } } : State).fileWaiter =
        some { m' with store := { s.store with fifo := [bootJob c (s.boot.record.apply c)] } } := by
      have hb' : ({ m with store := { s.store with waiters := [] } } : State).commitBelowFloor c = false := hb
      obtain ⟨_, _, _, _, _, _, _, _, _, st0, _, _, _, _, boot, _⟩ := s
      cases boot; cases st0
      simp_all [State.fileWaiter, State.fileChange, State.mapBoot, State.mapStore, m, m']
    unfold State.settle1
    rw [e1, e2]; rfl
  have t3 : ({ m' with store := { s.store with fifo := [bootJob c (s.boot.record.apply c)] } } : State).settle1 =
      some (m'.tookJob (bootJob c (s.boot.record.apply c))) := by
    have := State.settle1_take m' (bootJob c (s.boot.record.apply c)) qm f
    rw [State.takeJob_idle] at this
    have hk : m'.store.takeCheck m'.guard (bootJob c (s.boot.record.apply c)) = none := by
      have hg : m'.store.gen 255 ≠ 0xFFFFFFFF#32 := hc
      have hd : m'.store.degraded = false := f6
      have hs : (bootJob c (s.boot.record.apply c)).slot = 255 := rfl
      have he : (bootJob c (s.boot.record.apply c)).expected = none := rfl
      simp [Store.takeCheck, hd, hs, he, hg, userSlot]
    rw [hk] at this
    exact this
  refine (show settleLoop (1996 + 1 + 1 + 1 + 1) (s.ask c) = _ from ?_)
  rw [settleLoop_turn _ t1, settleLoop_turn _ t2, settleLoop_turn _ t3,
    settleLoop_turn _ (State.settle1_seek m' _ st p qm f h), settleLoop_quiet _ _ (State.writes_quiet m' _ st p qm f h)]
  rfl

end Sys2Proof.Machine
end

