-- ==== Sys2Proof/Laws/Contexts.lean ====
section
/-! SUPPORT. The context table: which entry a load takes, what it writes, good handles and stamps; and the end of an extension. -/
namespace Sys2Proof.Machine

theorem chooseEntry_free (t : CtxTable) (i : Nat) (ep : Byte) (hi : i < 12) (h : t.entries[i]? = some { epoch := ep, ctx := none })
   (hl : ∀ k, k < i → ∃ e, t.entries[k]? = some e ∧ e.ctx ≠ none) : t.choose = some (i, false) := by
  unfold CtxTable.choose
  have : ((List.range 12).find? fun i => (t.entries[i]?).any fun e => e.ctx.isNone) = some i := by
    rw [List.find?_range_eq_some]
    refine ⟨by simp [h], by simpa using hi, ?_⟩
    intro j hj
    obtain ⟨e, he, hc⟩ := hl j hj
    simp [he]
    cases h' : e.ctx with
    | none => exact absurd h' hc
    | some c => rfl
  rw [this]

/-- One entry looked at in the search for the entry to evict (R123). -/
def evicteeStep (t : CtxTable) : Option (Nat × Nat) → Nat → Option (Nat × Nat) := fun best i =>
      match t.entries[i]? with
      | none => best
      | some e =>
        match e.ctx with
        | none => best
        | some c =>
          if c.pinned then best
          else match best with
            | none => some (i, c.stamp)
            | some b => if c.stamp < b.2 then some (i, c.stamp) else best

theorem evicteeStep_other (t : CtxTable) (i k : Nat) (c : Ctx) (best) 
   (hmin : ∀ k e x, k ≠ i → t.entries[k]? = some e → e.ctx = some x → x.pinned = false → c.stamp < x.stamp)
   (hk : k ≠ i) (hb : best = none ∨ best = some (i, c.stamp) ∨ ∃ b, best = some b ∧ c.stamp < b.2) :
   (best = some (i, c.stamp) → evicteeStep t best k = some (i, c.stamp)) ∧
   ((best = none ∨ ∃ b, best = some b ∧ c.stamp < b.2) → (evicteeStep t best k = none ∨ ∃ b, evicteeStep t best k = some b ∧ c.stamp < b.2)) := by
  unfold evicteeStep
  cases he : t.entries[k]? with
  | none => simp
  | some e =>
    dsimp only
    cases hx : e.ctx with
    | none => simp
    | some x =>
      dsimp only
      cases hp : x.pinned with
      | true => simp
      | false =>
        have := hmin k e x hk he hx hp
        simp only [Bool.false_eq_true, if_false]
        refine ⟨?_, ?_⟩
        · intro hbb; rw [hbb]; dsimp only; rw [if_neg (by omega)]
        · intro hbb
          right
          rcases hbb with hbb | ⟨b, hbb, hlt⟩
          · rw [hbb]; exact ⟨_, rfl, this⟩
          · rw [hbb]; dsimp only; split
            · exact ⟨_, rfl, this⟩
            · exact ⟨_, rfl, hlt⟩

theorem evicteeStep_self (t : CtxTable) (i : Nat) (ep) (c : Ctx) (best) (h : t.entries[i]? = some { epoch := ep, ctx := some c }) (hp : c.pinned = false)
   (hb : best = none ∨ ∃ b, best = some b ∧ c.stamp < b.2) : evicteeStep t best i = some (i, c.stamp) := by
  unfold evicteeStep
  rw [h]; simp only [hp, Bool.false_eq_true, if_false]
  rcases hb with hb | ⟨b, hb, hlt⟩
  · rw [hb]
  · rw [hb]; simp [hlt]

theorem evictee_fold (t : CtxTable) (i : Nat) (ep) (c : Ctx) (h : t.entries[i]? = some { epoch := ep, ctx := some c }) (hp : c.pinned = false)
   (hmin : ∀ k e x, k ≠ i → t.entries[k]? = some e → e.ctx = some x → x.pinned = false → c.stamp < x.stamp) :
   ∀ (l : List Nat) (best), (best = some (i, c.stamp) → l.foldl (evicteeStep t) best = some (i, c.stamp)) ∧
     ((best = none ∨ ∃ b, best = some b ∧ c.stamp < b.2) → i ∈ l → l.foldl (evicteeStep t) best = some (i, c.stamp)) := by
  intro l
  induction l with
  | nil => intro best; exact ⟨fun h => h, fun _ h => absurd h (by simp)⟩
  | cons k l ih =>
    intro best
    refine ⟨?_, ?_⟩
    · intro hb
      by_cases hk : k = i
      · subst hk
        simp only [List.foldl_cons]
        apply (ih _).1
        rw [hb]; unfold evicteeStep; rw [h]; simp [hp]
      · simp only [List.foldl_cons]
        exact (ih _).1 ((evicteeStep_other t i k c best hmin hk (Or.inr (Or.inl hb))).1 hb)
    · intro hb hm
      by_cases hk : k = i
      · subst hk
        simp only [List.foldl_cons]
        exact (ih _).1 (evicteeStep_self t k ep c best h hp hb)
      · simp only [List.foldl_cons]
        apply (ih _).2
        · exact (evicteeStep_other t i k c best hmin hk (by rcases hb with hb | hb; exact Or.inl hb; exact Or.inr (Or.inr hb))).2 hb
        · simpa [Ne.symm hk, show i ≠ k from fun h => hk h.symm] using hm

theorem chooseEntry_evict (t : CtxTable) (i : Nat) (ep : Byte) (c : Ctx) (hl : t.entries.length = 12) (hall : ∀ e, e ∈ t.entries → e.ctx ≠ none)
   (h : t.entries[i]? = some { epoch := ep, ctx := some c }) (hp : c.pinned = false)
   (hmin : ∀ k e x, k ≠ i → t.entries[k]? = some e → e.ctx = some x → x.pinned = false → c.stamp < x.stamp) :
   t.choose = some (i, true) := by
  unfold CtxTable.choose
  have h1 : ((List.range 12).find? fun i => (t.entries[i]?).any fun e => e.ctx.isNone) = none := by
    rw [List.find?_eq_none]
    intro k hk
    cases he : t.entries[k]? with
    | none => simp
    | some e =>
      cases hx : e.ctx with
      | none => exact absurd hx (hall e (List.mem_of_getElem? he))
      | some c => simp [hx]
  rw [h1]
  dsimp only
  have hi : i < 12 := by rw [← hl]; exact (List.getElem?_eq_some_iff.1 h).1
  have : t.evictee = some i := by
    unfold CtxTable.evictee
    have := ((evictee_fold t i ep c h hp hmin) (List.range 12) none).2 (Or.inl rfl) (by simpa using hi)
    show ((List.range 12).foldl (evicteeStep t) none).map (·.1) = some i
    rw [this]; rfl
  rw [this]; rfl

theorem modify_set {α} (l : List α) (i : Nat) (f : α → α) (x : α) : (l.modify i f).set i x = l.set i x := by
  apply List.ext_getElem?
  intro k
  by_cases hk : i = k
  · subst hk; simp [List.getElem?_set]
  · simp [List.getElem?_set_ne hk, List.getElem?_modify, hk]

theorem loadEntry_eq (t : CtxTable) (i : Nat) (ch) (slot gen r) (ep : Byte) (hc : t.counter < 4294967295) (e : CtxEntry) (h : t.entries[i]? = some e) (he : e.free.epoch = ep) :
   t.load i ch slot gen r = ({ entries := t.entries.set i { epoch := ep, ctx := some { slot := slot, gen := gen, owner := ch, kind := r.kind, domain := r.domain, flags := r.flags, needsOwner := r.needsOwner, mask := r.mask, pinned := false, stamp := t.counter + 1, material := r.payload } }, counter := t.counter + 1 }, { entry := i, epoch := ep }) := by
  unfold CtxTable.load
  have h2 : ({ t with entries := t.entries.modify i CtxEntry.free } : CtxTable).ready = { t with entries := t.entries.modify i CtxEntry.free } := by
    unfold CtxTable.ready; rw [if_neg]; unfold topWord; simp; omega
  simp only [h2]
  have h3 : (t.entries.modify i CtxEntry.free)[i]? = some e.free := by simp [List.getElem?_modify, h]
  simp only [h3, Option.elim, he, CtxTable.setEntry, setAt, modify_set]

theorem goodHandle_none (t : CtxTable) (ch) (n : Nat) (ep : Byte) (h : ∀ x, t.entries[n]? = some { epoch := ep, ctx := some x } → x.owner ≠ ch) :
   t.good ch { entry := n, epoch := ep } = none := by
  unfold CtxTable.good
  dsimp only
  cases he : t.entries[n]? with
  | none => rfl
  | some e =>
    dsimp only
    cases hc : e.ctx with
    | none => rfl
    | some c =>
      dsimp only
      rw [if_neg]
      intro hh
      have : e = { epoch := ep, ctx := some c } := by cases e; simp_all
      exact h c (by rw [he, this]) hh.1

theorem goodHandle_some (t : CtxTable) (ch) (n : Nat) (ep : Byte) (x) (h : t.entries[n]? = some { epoch := ep, ctx := some x }) (ho : x.owner = ch) :
   t.good ch { entry := n, epoch := ep } = some x := by
  unfold CtxTable.good
  simp [h, ho]

theorem stamp_eq (t : CtxTable) (n : Nat) (ep : Byte) (x) (hc : t.counter < 4294967295) (h : t.entries[n]? = some { epoch := ep, ctx := some x }) :
   t.stamp n = { entries := t.entries.set n { epoch := ep, ctx := some { x with stamp := t.counter + 1 } }, counter := t.counter + 1 } := by
  unfold CtxTable.stamp
  have h2 : t.ready = t := by unfold CtxTable.ready; rw [if_neg]; unfold topWord; omega
  rw [h2]; simp only [h, CtxTable.setEntry, setAt]

theorem selected_eq (m : Meas) (mask : Byte) : m.selected mask = (List.range 8).flatMap (fun k => if mask.getLsbD k then m.lane k else []) := by
  unfold Meas.selected
  generalize List.range 8 = l
  induction l with
  | nil => rfl
  | cons a l ih =>
    simp only [List.filter_cons, List.flatMap_cons]
    split <;> simp_all

theorem extendEnded_eq (v u : State) (ch lane value digest label src)
    (e : v.completeExtension lane (extendOf value digest) digest label src = u)
    (hst : ∀ (m : BootMode) (b : Option Bank), u.boot.stage ≠ Stage.releaseClosing m b) :
    v.extendEnded ch lane value digest label src =
      (match src with
       | .part => u.partExtended
       | .recovery => (u.setWork .S .recoveryRelease).mapBoot fun bt => { bt with stage := .releaseReady .recovery none }
       | .supervisor | .application => u.reply ch .ok (byte (u.meas.log.length - 1) :: extendOf value digest)) := by
  unfold State.extendEnded
  dsimp only
  rw [e]
  cases src
  all_goals
    dsimp only
    split
    · rename_i m b hh; exact absurd hh (hst _ _)
    · rfl

end Sys2Proof.Machine
end

