-- ==== Sys2Proof/Laws/Crypto.lean ====
section
/-! SUPPORT. The signature of SIGN: some value k of the model's order is good for every private scalar, so r and s are never 0. -/
namespace Sys2Proof.Machine

theorem be_length : ∀ n v : Nat, (be n v).length = n
  | 0, _ => rfl
  | n + 1, v => by simp [be, be_length n v]

theorem foldl_be (v : Nat) : ∀ n acc : Nat,
    (be n v).foldl (fun (a : Nat) (b : Byte) => a * 256 + b.toNat) acc = acc * 256 ^ n + v % 256 ^ n
  | 0, acc => by simp [be, Nat.mod_one]
  | n + 1, acc => by
    rw [be, List.foldl_cons, foldl_be v n]
    have h1 : (BitVec.ofNat 8 (v / 256 ^ n)).toNat = v / 256 ^ n % 256 := by simp
    have h2 : v % (256 ^ n * 256) = v % 256 ^ n + 256 ^ n * (v / 256 ^ n % 256) := Nat.mod_mul
    rw [h1, Nat.pow_succ, h2, Nat.add_mul, Nat.mul_assoc, Nat.mul_comm 256 (256 ^ n), Nat.mul_comm (v / 256 ^ n % 256)]
    omega

/-- The integer spelled by the `n` bytes of a number that fits is that number (R191). -/
theorem beNat_be {n v : Nat} (h : v < 256 ^ n) : beNat (be n v) = v := by
  have := foldl_be v n 0
  rw [Nat.mod_eq_of_lt h, Nat.zero_mul, Nat.zero_add] at this
  exact this

/-- The x coordinate of the base point modulo n, and that of its double. -/
theorem nonceR_one : xModOrder (mulPoint baseG 256 1) = 0x6b17d1f2e12c4247f8bce6e563a440f277037d812deb33a0f4a13945d898c296 := by
  decide +kernel

theorem nonceR_two : xModOrder (mulPoint baseG 256 2) = 0x7cf27b188d034f7e8a52380304b51ac3c08969e277f21b35a60b48fc47669978 := by
  decide +kernel

theorem invMod_order_one : invMod order256 1 = 1 := by decide +kernel

theorem two_mul_invMod_order : 2 * invMod order256 2 % order256 = 1 := by decide +kernel

/-- A value k whose r is not 0 is bad only where s is 0. -/
theorem goodNonce_false {scalar digest : Bytes} {k : Nat} (h : goodNonce scalar digest k = false)
    (hr : xModOrder (mulPoint baseG 256 k) ≠ 0) :
    invMod order256 k * ((beNat digest + xModOrder (mulPoint baseG 256 k) * beNat scalar) % order256) % order256 = 0 := by
  unfold goodNonce signAttempt at h
  simpa [hr] using h

/-- One of 1 and 2 is good for every private scalar (log 9). -/
theorem goodNonce_one_or_two (scalar digest : Bytes) (h1 : 1 ≤ beNat scalar) (h2 : beNat scalar < order256) :
    goodNonce scalar digest 1 = true ∨ goodNonce scalar digest 2 = true := by
  cases g1 : goodNonce scalar digest 1 with
  | true => exact Or.inl rfl
  | false =>
    cases g2 : goodNonce scalar digest 2 with
    | true => exact Or.inr rfl
    | false =>
      exfalso
      have a1 := goodNonce_false g1 (by rw [nonceR_one]; decide)
      have a2 := goodNonce_false g2 (by rw [nonceR_two]; decide)
      rw [nonceR_one, invMod_order_one] at a1
      rw [nonceR_two] at a2
      generalize beNat digest = e at *
      generalize beNat scalar = d at *
      have b1 : order256 ∣ e + 0x6b17d1f2e12c4247f8bce6e563a440f277037d812deb33a0f4a13945d898c296 * d := by
        apply Nat.dvd_of_mod_eq_zero
        simpa using a1
      have b2 : order256 ∣ e + 0x7cf27b188d034f7e8a52380304b51ac3c08969e277f21b35a60b48fc47669978 * d := by
        have c1 := Nat.dvd_mul_left_of_dvd (Nat.dvd_of_mod_eq_zero a2) 2
        have c2 : Nat.Coprime order256 (2 * invMod order256 2) := by
          unfold Nat.Coprime
          rw [Nat.gcd_rec, two_mul_invMod_order]
          decide
        rw [← Nat.mul_assoc] at c1
        exact (Nat.dvd_mod_iff (Nat.dvd_refl _)).1 (c2.dvd_of_dvd_mul_left c1)
      have b3 := Nat.dvd_sub b2 b1
      have e1 : e + 0x7cf27b188d034f7e8a52380304b51ac3c08969e277f21b35a60b48fc47669978 * d
          - (e + 0x6b17d1f2e12c4247f8bce6e563a440f277037d812deb33a0f4a13945d898c296 * d)
          = (0x7cf27b188d034f7e8a52380304b51ac3c08969e277f21b35a60b48fc47669978
            - 0x6b17d1f2e12c4247f8bce6e563a440f277037d812deb33a0f4a13945d898c296) * d := by
        omega
      rw [e1] at b3
      have c3 : Nat.Coprime order256 (0x7cf27b188d034f7e8a52380304b51ac3c08969e277f21b35a60b48fc47669978
            - 0x6b17d1f2e12c4247f8bce6e563a440f277037d812deb33a0f4a13945d898c296) := by
        decide +kernel
      exact absurd (Nat.le_of_dvd h1 (c3.dvd_of_dvd_mul_left b3)) (Nat.not_le.2 h2)

/-- The first good value k is taken, so r and s of SIGN are never 0 for a private scalar (R26). -/
theorem signPair_ne_zero (scalar digest : Bytes) (h1 : 1 ≤ beNat scalar) (h2 : beNat scalar < order256) :
    (signPair scalar digest).1 ≠ 0 ∧ (signPair scalar digest).2 ≠ 0 := by
  unfold signPair
  cases h : (signNonces scalar digest).find? (goodNonce scalar digest) with
  | none =>
    rw [List.find?_eq_none] at h
    rcases goodNonce_one_or_two scalar digest h1 h2 with g | g
    · exact absurd g (h 1 (by simp [signNonces]))
    · exact absurd g (h 2 (by simp [signNonces]))
  | some k =>
    have := List.find?_some h
    unfold goodNonce at this
    simpa using this

/-- r and s of an attempt are below n (R26). -/
theorem signAttempt_lt (scalar digest : Bytes) (k : Nat) :
    (signAttempt scalar digest k).1 < order256 ∧ (signAttempt scalar digest k).2 < order256 := by
  have pos : 0 < order256 := by decide
  unfold signAttempt xModOrder
  refine ⟨?_, Nat.mod_lt _ pos⟩
  split
  · exact pos
  · exact Nat.mod_lt _ pos

end Sys2Proof.Machine
end

