-- ==== Sys2Proof/Laws/Judging.lean ====
section
/-! SUPPORT. Replies in quiet states, and what the judgments of write rights and owner grant answer: one lemma per case of each judgment. -/
namespace Sys2Proof.Machine

theorem settle_reply {s : State} (q : s.quiet = true) (ch) (st) (b) : (s.reply ch st b).settle = s.reply ch st b :=
  State.settle_quiet _ (by simp [q])

theorem reply_setWork (s : State) (ch w st b) : (s.setWork ch w).reply ch st b = s.reply ch st b := by
  cases ch <;> rfl

theorem ota_quiet {s : State} (ota : Ota) (q : s.quiet = true) (h : ota.current.isSome = true ∨ ota.queue = []) :
    ({ s with ota := ota } : State).quiet = true := by
  obtain ⟨a1, a2, a3, a4, a5, a6, a7, a8⟩ := (State.quiet_iff_parts s).1 q
  rw [State.quiet_iff_parts]
  exact ⟨a1, a2, a3, a4, h, a6, a7, a8⟩

theorem rejudge_same (s : State) (h : s.ota.judge.rootCount = s.ota.rootCount) : s.rejudge = { s with ota := s.ota.judge } := by
  unfold State.rejudge
  exact if_pos h

theorem judgeWrite_false (s : State) (ch d) (h : s.mayWrite ch d = false) : s.judgeWrite ch d = (false, s) := by
  unfold State.mayWrite at h
  unfold State.judgeWrite
  cases d with
  | none => rfl
  | some dom =>
    simp only [Option.any_some] at h
    dsimp only
    cases h1 : (s.granted ch (some dom) && dom.writableOn ch)
    · simp
    · rw [h1] at h
      simp only [Bool.true_and] at h
      simp only [if_true]
      cases h2 : dom.needsGrant <;> simp_all

theorem judgeWrite_true (s : State) (ch d) (h : s.mayWrite ch d = true) : s.judgeWrite ch d = (true, s.afterUse (grantNeeded d)) := by
  unfold State.mayWrite at h
  unfold State.judgeWrite
  cases d with
  | none => simp at h
  | some dom =>
    simp only [Option.any_some] at h
    dsimp only
    cases h1 : (s.granted ch (some dom) && dom.writableOn ch)
    · simp [h1] at h
    · rw [h1] at h
      simp only [Bool.true_and] at h
      simp only [if_true]
      cases h2 : dom.needsGrant <;> simp_all [State.afterUse, grantNeeded]

theorem afterUse_cases (s : State) (b : Bool) : s.afterUse b = s ∨ s.afterUse b = s.useGrant := by
  cases b <;> simp [State.afterUse]

theorem useGrant_shape (s : State) : s.useGrant = { s with owner := s.useGrant.owner } := by
  unfold State.useGrant; split <;> rfl

theorem useGrant_isSome (s : State) : s.useGrant.owner.grant.isSome = s.owner.grant.isSome := by
  unfold State.useGrant; split <;> simp_all

theorem useGrant_idem (s : State) : s.useGrant.useGrant = s.useGrant := by
  unfold State.useGrant
  cases h : s.owner.grant
  · simp [h]
  · simp

theorem afterUse_shape (s : State) (b) : s.afterUse b = { s with owner := (s.afterUse b).owner } := by
  cases b
  · rfl
  · exact useGrant_shape s

theorem mayWrite_owner (s : State) (o : Owner) (h : o.grant.isSome = s.owner.grant.isSome) (ch d) :
   ({ s with owner := o } : State).mayWrite ch d = s.mayWrite ch d := by
  unfold State.mayWrite
  have : ∀ dom, ({ s with owner := o } : State).granted ch dom = s.granted ch dom := by intro dom; cases ch <;> rfl
  simp only [this, h]

theorem afterUse_isSome (s : State) (b) : (s.afterUse b).owner.grant.isSome = s.owner.grant.isSome := by
  cases b
  · rfl
  · exact useGrant_isSome s

theorem afterUse_afterUse (s : State) (a b) : (s.afterUse a).afterUse b = s.afterUse (a || b) := by
  cases a <;> cases b <;> simp [State.afterUse, useGrant_idem]

@[simp] theorem afterUse_quiet (s : State) (b) : (s.afterUse b).quiet = s.quiet := by cases b <;> simp [State.afterUse]

@[simp] theorem afterUse_store (s : State) (b) : (s.afterUse b).store = s.store := by rw [afterUse_shape]

@[simp] theorem afterUse_guard (s : State) (b) : (s.afterUse b).guard = s.guard := by rw [afterUse_shape]

@[simp] theorem afterUse_engine (s : State) (b) : (s.afterUse b).engine = s.engine := by rw [afterUse_shape]

@[simp] theorem tookJob_owner (s : State) (j) : (s.tookJob j).owner = s.owner := rfl

theorem tookJob_afterUse (s : State) (j b) : (s.tookJob j).afterUse b = (s.afterUse b).tookJob j := by
  cases b
  · rfl
  · show (s.tookJob j).useGrant = s.useGrant.tookJob j
    unfold State.useGrant
    simp only [tookJob_owner]
    cases s.owner.grant <;> rfl

theorem tookJob_mayWrite (s : State) (j ch d) : (s.tookJob j).mayWrite ch d = s.mayWrite ch d := by
  unfold State.mayWrite
  have : ∀ dom, (s.tookJob j).granted ch dom = s.granted ch dom := by intro dom; cases ch <;> rfl
  simp only [this, tookJob_owner]

theorem afterUse_mayWrite (s : State) (b ch d) : (s.afterUse b).mayWrite ch d = s.mayWrite ch d := by
  rw [afterUse_shape]; exact mayWrite_owner s _ (afterUse_isSome s b) ch d

theorem setWork_mayWrite (s : State) (ch w ch' d) : (s.setWork ch w).mayWrite ch' d = s.mayWrite ch' d := by
  unfold State.mayWrite
  have : ∀ dom, (s.setWork ch w).granted ch' dom = s.granted ch' dom := by intro dom; cases ch <;> cases ch' <;> rfl
  simp only [this]
  simp

theorem tookJob_keptRec (s : State) (j n) : (s.tookJob j).store.keptRec n = s.store.keptRec n := rfl

theorem setWork_afterUse (s : State) (ch w b) : (s.afterUse b).setWork ch w = (s.setWork ch w).afterUse b := by
  cases b
  · rfl
  · show s.useGrant.setWork ch w = (s.setWork ch w).useGrant
    unfold State.useGrant
    have : (s.setWork ch w).owner = s.owner := by simp
    simp only [this]
    cases s.owner.grant <;> cases ch <;> rfl

/-- the end of a job at take, as a reply -/

theorem endJob_reply (s : State) (ch) (j : WriteJob) (hi : s.store.idle = true) (o : JobEnd) (ho : j.orphan = false) (hch : j.chan = some ch)
    (hf : j.filer = .writeSlot ∨ j.filer = .deleteSlot) : (s.tookJob j).endJob o = s.replyJob ch o [] := by
  obtain ⟨e1, e2, e3, e4, e5, e6⟩ := (Store.idle_iff _).1 hi
  have : (s.tookJob j).endJob o = s.deliver j o := by
    obtain ⟨_, _, _, _, _, _, _, _, _, st0, _, _, _, _, boot, _⟩ := s
    cases st0
    simp_all [State.endJob, State.tookJob, State.mapStore]
  rw [this]
  rcases hf with hf | hf <;> simp [State.deliver, hf, ho, hch]

theorem reply_afterUse_setWork (s : State) (ch w b st bd) : ((s.afterUse b).setWork ch w).reply ch st bd = (s.afterUse b).reply ch st bd := reply_setWork _ _ _ _ _

theorem judgeTakeWrite_granted (s t : State) (ch) (j : WriteJob) (h : s.judgeWrite ch j.record.domain = (true, t)) :
   s.judgeTakeWrite ch j = if (t.store.keptRec j.slot).any (·.kind == .verifier) then (some (.fail .slotKind), t) else t.judgeOver ch j.slot := by
  unfold State.judgeTakeWrite
  rw [h]; rfl

theorem judgeOver_none (s : State) (ch n) (h : s.store.keptRec n = none) : s.judgeOver ch n = (none, s) := by
  unfold State.judgeOver; rw [h]

theorem judgeOver_refused (s : State) (ch n r) (h : s.store.keptRec n = some r) (hm : s.mayWrite ch r.domain = false) : s.judgeOver ch n = (some (.fail .notPermitted), s) := by
  unfold State.judgeOver; rw [h]; dsimp only; rw [judgeWrite_false _ _ _ hm]; rfl

theorem judgeOver_granted (s : State) (ch n r) (h : s.store.keptRec n = some r) (hm : s.mayWrite ch r.domain = true) : s.judgeOver ch n = (none, s.afterUse (grantNeeded r.domain)) := by
  unfold State.judgeOver; rw [h]; dsimp only; rw [judgeWrite_true _ _ _ hm]; rfl

theorem judgeTake_writeSlot (s : State) (ch) (j : WriteJob) (hf : j.filer = .writeSlot) (hc : j.chan = some ch) : s.judgeTake j = s.judgeTakeWrite ch j := by
  unfold State.judgeTake; rw [hf, hc]

end Sys2Proof.Machine
end

