-- ==== Sys2Proof/Laws/Layouts.lean ====
section
/-! SUPPORT. The readers of request arguments on what their writers give, and the lengths of fitted byte strings. -/
namespace Sys2Proof.Machine

theorem byte_toNat {n : Nat} (h : n < 256) : (byte n).toNat = n := by simp [byte, Nat.mod_eq_of_lt h]

theorem takeBytes_append (a b : Bytes) (n : Nat) (h : a.length = n) : takeBytes n (a ++ b) = some (a, b) := by
  subst h; simp [takeBytes]

theorem takeString_append (a b : Bytes) (h : a.length < 256) : takeString (byte a.length :: (a ++ b)) = some (a, b) := by
  simp only [takeString, byte_toNat h]
  exact takeBytes_append a b _ rfl

theorem takeString_all (a : Bytes) (h : a.length < 256) : takeString (byte a.length :: a) = some (a, []) := by
  simp [takeString, byte_toNat h, takeBytes]

theorem takeBytes_all (a : Bytes) (n) (h : a.length = n) : takeBytes n a = some (a, []) := by
  subst h; simp [takeBytes]

theorem takeFlag_flag (b : Bool) (r : Bytes) : takeFlag (flagByte b :: r) = some (b, r) := by cases b <;> rfl

theorem be4_length (n : Nat) : (be 4 n).length = 4 := rfl

theorem be4_word (x : Word) : BitVec.ofNat 32 (beNat (be 4 x.toNat)) = x := by
  apply BitVec.eq_of_toNat_eq
  have := x.isLt
  simp [be, beNat]
  omega

theorem be4_nat (x : Word) : beNat (be 4 x.toNat) = x.toNat := by
  have := x.isLt
  simp [be, beNat]
  omega

theorem be2_nat (x : BitVec 16) : beNat (be 2 x.toNat) = x.toNat := by
  have := x.isLt
  simp [be, beNat]
  omega

theorem takeOptional_optBytes (g : Option Word) (r : Bytes) : takeOptional 4 (optBytes (g.map fun x => be 4 x.toNat) ++ r) = some (g.map fun x => be 4 x.toNat, r) := by
  cases g with
  | none => rfl
  | some x => 
    simp only [Option.map, optBytes, List.cons_append, takeOptional]
    simp [takeBytes, be4_length]
    exact ⟨rfl, rfl⟩

theorem optWord_map (g : Option Word) : optWord (g.map fun x => be 4 x.toNat) = g := by
  cases g with
  | none => rfl
  | some x => simp [optWord, be4_word]

theorem kindOfCode_code (k : Kind) : Kind.ofCode k.code = some k := by cases k <;> rfl

theorem domainOfCode_code (d : Domain) : Domain.ofCode d.code = some d := by cases d <;> rfl

theorem fit_take (n k : Nat) (b : Bytes) (x : Byte) (h : n ≤ b.length) : fit n x b = b.take n := by
  unfold fit; rw [Nat.sub_eq_zero_of_le h]; simp

/-! ### Digests are 32 bytes -/

/-- Byte strings that agree on their first `m` bytes agree on whatever is read there. -/
theorem byteAt_of_take {a b : Bytes} {m : Nat} (h : a.take m = b.take m) {i : Nat} (hi : i < m) : byteAt a i = byteAt b i := by
  unfold byteAt
  have := congrArg (fun l : Bytes => l[i]?) h
  simp only [List.getElem?_take, hi, if_true] at this
  simp [List.getD, this]

theorem take_of_take {a b : Bytes} {m k : Nat} (h : a.take m = b.take m) (hk : k ≤ m) : a.take k = b.take k := by
  have := congrArg (fun l : Bytes => l.take k) h
  simpa [List.take_take, Nat.min_eq_left hk] using this

theorem slice_of_take {a b : Bytes} {m : Nat} (h : a.take m = b.take m) (hl : a.length = b.length) {off n : Nat}
    (hi : off + n ≤ m) : slice a off n = slice b off n := by
  unfold slice fit
  have e : ∀ c : Bytes, (c.drop off).take n = (c.take (off + n)).drop off := by
    intro c; rw [List.drop_take]; simp
  rw [e, e, take_of_take h hi, List.length_drop, List.length_drop, hl]

theorem shaBlocks_length : ∀ (n : Nat) (h : List Word) (bs : Bytes), h.length = 8 → (shaBlocks n h bs).length = 8
  | 0, _, _, e => e
  | n + 1, _, _, _ => shaBlocks_length n _ _ rfl

theorem DigestState.finish_length (d : DigestState) (e : d.h.length = 8) : d.finish.length = 32 := by
  have h4 : ∀ l : List Word, (l.flatMap fun w => be 4 w.toNat).length = 4 * l.length := by
    intro l
    induction l with
    | nil => rfl
    | cons w l ih => rw [List.flatMap_cons, List.length_append, ih]; simp [be4_length]; omega
  unfold DigestState.finish
  rw [h4, shaBlocks_length _ _ _ e]

theorem DigestState.feed_length (d : DigestState) (bs : Bytes) (e : d.h.length = 8) : (d.feed bs).h.length = 8 :=
  shaBlocks_length _ _ _ e

theorem digestOf_length (bs : Bytes) : (digestOf bs).length = 32 :=
  DigestState.finish_length _ (DigestState.feed_length _ _ rfl)

theorem stretchOf_length (salt cand : Bytes) : (stretchOf salt cand).length = 32 := by
  have : ∀ (n : Nat) (v : Bytes), v.length = 32 → (stretchSteps salt n v).length = 32 := by
    intro n
    induction n with
    | zero => exact fun _ e => e
    | succ n ih => exact fun _ _ => ih _ (digestOf_length _)
  exact this _ _ (digestOf_length _)

end Sys2Proof.Machine
end

