-- ==== Sys2Proof/Laws/OwnerUnit.lean ====
section
/-! SUPPORT. The hold-off table under an update, the lockout test and the end of an owner grant. -/
namespace Sys2Proof.Machine

theorem insertHold_find (x : HoldEntry) (l : List HoldEntry) : (insertHold x l).find? (fun e => e.slot == x.slot) = some x := by
  induction l with
  | nil => simp [insertHold]
  | cons e l ih =>
    unfold insertHold
    split
    · rw [List.find?_cons_of_neg]; exact ih
      simp; omega
    · split
      · simp
      · simp

theorem holdOf_setHold (s : State) (x : HoldEntry) (n) (h : x.slot = n) : (s.setHold x).holdOf n = x := by
  unfold State.holdOf State.setHold Owner.entry
  subst h
  simp only [insertHold_find]

theorem holdOf_slot (s : State) (n) : (s.holdOf n).slot = n := by
  unfold State.holdOf Owner.entry
  cases h : s.owner.table.find? (fun e => e.slot == n) with
  | none => rfl
  | some e => simpa using List.find?_some h

theorem decayed_slot (p u e) : (decayed p u e).slot = e.slot := by
  unfold decayed
  split
  · dsimp only; split <;> rfl
  · rfl

theorem lockedOut_iff (p : Params) (c : Nat) : lockedOut p c = true ↔ p.L ≠ 0 ∧ p.L ≤ c := by simp [lockedOut]

theorem lockedOut_false_iff (p : Params) (c : Nat) : lockedOut p c = false ↔ ¬ (p.L ≠ 0 ∧ p.L ≤ c) := by
  rw [← lockedOut_iff]; simp

theorem endGrant_match (s : State) : s.endGrant = (match s.owner.grant with
          | some _ => ({ s with owner := { s.owner with grant := none, idleDue := false } }.invalidate fun x : Ctx => x.needsOwner).raise .A .ownerGrantEnded
          | none => s) := by
  unfold State.endGrant
  cases s.owner.grant <;> rfl

end Sys2Proof.Machine
end

