-- ==== Sys2Proof/Laws/Scan.lean ====
section
/-! SUPPORT. What the parts of the start-up scan choose: the LIVE page of a slot, the entry of a slot in the scan's map, the lowest
block with a property, the OPEN block (R60, R61). -/
namespace Sys2Proof.Machine

/-! ### The order of good pages -/

theorem PlacedPage.beats_iff (a b : PlacedPage) : a.beats b = true ↔
    b.good.gen < a.good.gen ∨ b.good.gen = a.good.gen ∧ (a.page / 16 < b.page / 16 ∨ a.page / 16 = b.page / 16 ∧ b.page < a.page) := by
  unfold PlacedPage.beats blockOf
  simp only [Bool.or_eq_true, Bool.and_eq_true, decide_eq_true_eq, beq_iff_eq, BitVec.lt_def,
    eq_comm (a := a.good.gen)]

theorem PlacedPage.beats_total (a b : PlacedPage) (h : a.page ≠ b.page) (hn : ¬ a.beats b = true) : b.beats a = true := by
  rw [PlacedPage.beats_iff] at *
  have h1 := @BitVec.toNat_inj 32 a.good.gen b.good.gen
  have h2 := @BitVec.toNat_inj 32 b.good.gen a.good.gen
  simp only [BitVec.lt_def, ← h1, ← h2] at *
  omega

theorem PlacedPage.beats_trans {a b c : PlacedPage} (h : a.beats b = true) (h' : b.beats c = true) : a.beats c = true := by
  rw [PlacedPage.beats_iff] at *
  have h1 := @BitVec.toNat_inj 32 a.good.gen b.good.gen
  have h2 := @BitVec.toNat_inj 32 b.good.gen a.good.gen
  have h3 := @BitVec.toNat_inj 32 c.good.gen b.good.gen
  have h4 := @BitVec.toNat_inj 32 c.good.gen a.good.gen
  simp only [BitVec.lt_def, ← h1, ← h2, ← h3, ← h4] at *
  omega

theorem PlacedPage.beats_asymm {a b : PlacedPage} (h : a.beats b = true) : ¬ b.beats a = true := by
  rw [PlacedPage.beats_iff] at *
  have h1 := @BitVec.toNat_inj 32 a.good.gen b.good.gen
  have h2 := @BitVec.toNat_inj 32 b.good.gen a.good.gen
  simp only [BitVec.lt_def, ← h1, ← h2] at *
  omega

/-! ### The LIVE page of a slot (R60) -/

/-- The best of a slot's pages so far stays the best as more pages are looked at. -/
theorem bestPage_from (slot : Nat) : ∀ (l seen : List PlacedPage) (best : Option PlacedPage),
    (∀ a b, a ∈ seen ++ l → b ∈ seen ++ l → a.page = b.page → a = b) →
    (∀ p, best = some p → p ∈ seen ∧ p.good.slot = slot ∧ ∀ q, q ∈ seen → q.good.slot = slot → q = p ∨ p.beats q = true) →
    (best = none → ∀ q, q ∈ seen → q.good.slot ≠ slot) →
    let out := l.foldl
      (fun (best : Option PlacedPage) p =>
        if p.good.slot = slot then
          match best with
          | none => some p
          | some b => if p.beats b then some p else some b
        else best) best
    (∀ p, out = some p → p ∈ seen ++ l ∧ p.good.slot = slot ∧
      ∀ q, q ∈ seen ++ l → q.good.slot = slot → q = p ∨ p.beats q = true) ∧
    (out = none → ∀ q, q ∈ seen ++ l → q.good.slot ≠ slot)
  | [], seen, best, _, h1, h2 => by
    simp only [List.append_nil, List.foldl_nil]; exact ⟨h1, h2⟩
  | a :: l, seen, best, hd, h1, h2 => by
    have hsplit : seen ++ a :: l = (seen ++ [a]) ++ l := by simp
    rw [hsplit] at hd ⊢
    rw [List.foldl_cons]
    refine bestPage_from slot l (seen ++ [a]) _ hd ?_ ?_
    · intro p hp
      split at hp
      · rename_i hs
        cases hb : best with
        | none =>
          rw [hb] at hp; cases hp
          refine ⟨by simp, hs, ?_⟩
          intro q hq hqs
          rcases List.mem_append.mp hq with hq | hq
          · exact absurd hqs (h2 hb q hq)
          · exact .inl (by simpa using hq)
        | some b =>
          rw [hb] at hp; dsimp only at hp
          obtain ⟨b1, b2, b3⟩ := h1 b hb
          split at hp
          · rename_i hbeat
            cases hp
            refine ⟨by simp, hs, ?_⟩
            intro q hq hqs
            rcases List.mem_append.mp hq with hq | hq
            · rcases b3 q hq hqs with h | h
              · subst h; exact .inr hbeat
              · exact .inr (PlacedPage.beats_trans hbeat h)
            · exact .inl (by simpa using hq)
          · rename_i hbeat
            cases hp
            refine ⟨List.mem_append_left _ b1, b2, ?_⟩
            intro q hq hqs
            rcases List.mem_append.mp hq with hq | hq
            · exact b3 q hq hqs
            · have : q = a := by simpa using hq
              subst this
              by_cases hpg : q.page = p.page
              · exact .inl (hd q p (by simp) (by simp [b1]) hpg)
              · exact .inr (PlacedPage.beats_total _ _ hpg hbeat)
      · rename_i hs
        obtain ⟨b1, b2, b3⟩ := h1 p hp
        refine ⟨List.mem_append_left _ b1, b2, ?_⟩
        intro q hq hqs
        rcases List.mem_append.mp hq with hq | hq
        · exact b3 q hq hqs
        · have : q = a := by simpa using hq
          exact absurd (this ▸ hqs) hs
    · intro hn q hq
      split at hn
      · cases hb : best with
        | none => rw [hb] at hn; cases hn
        | some b => rw [hb] at hn; dsimp only at hn; split at hn <;> cases hn
      · rename_i hs
        rcases List.mem_append.mp hq with hq | hq
        · exact h2 hn q hq
        · have : q = a := by simpa using hq
          exact this ▸ hs

/-- The page chosen for a slot is one of the slot's pages and is taken over each of the others. -/
theorem bestPage_some {l : List PlacedPage} {slot : Nat} {p : PlacedPage}
    (hd : ∀ a b, a ∈ l → b ∈ l → a.page = b.page → a = b) (h : bestPage l slot = some p) :
    p ∈ l ∧ p.good.slot = slot ∧ ∀ q, q ∈ l → q.good.slot = slot → q = p ∨ p.beats q = true :=
  (bestPage_from slot l [] none hd (fun _ h => by cases h) (fun _ _ h => by cases h)).1 p h

/-- A slot for which no page is chosen has none. -/
theorem bestPage_none {l : List PlacedPage} {slot : Nat}
    (hd : ∀ a b, a ∈ l → b ∈ l → a.page = b.page → a = b) (h : bestPage l slot = none) :
    ∀ q, q ∈ l → q.good.slot ≠ slot :=
  (bestPage_from slot l [] none hd (fun _ h => by cases h) (fun _ _ h => by cases h)).2 h

/-- A slot's page that is taken over each of the others is the page chosen. -/
theorem bestPage_eq {l : List PlacedPage} {p : PlacedPage} (hd : ∀ a b, a ∈ l → b ∈ l → a.page = b.page → a = b)
    (hp : p ∈ l) (hb : ∀ q, q ∈ l → q.good.slot = p.good.slot → q.page ≠ p.page → p.beats q = true) :
    bestPage l p.good.slot = some p := by
  cases h : bestPage l p.good.slot with
  | none => exact absurd rfl (bestPage_none hd h p hp)
  | some q =>
    obtain ⟨h1, h2, h3⟩ := bestPage_some hd h
    rcases h3 p hp rfl with e | e
    · rw [e]
    · by_cases hpg : q.page = p.page
      · rw [hd q p h1 hp hpg]
      · exact absurd e (PlacedPage.beats_asymm (hb q h1 h2 hpg))

/-! ### The slot map of the scan -/

/-- Looking a number up among the entries made for the numbers below a bound. -/
theorem find_filterMap_range {α : Type} (f : Nat → Option α) (key : α → Nat) (hf : ∀ n a, f n = some a → key a = n) (n : Nat) :
    ∀ N, ((List.range N).filterMap f).find? (fun a => key a == n) = if n < N then f n else none
  | 0 => by simp
  | N + 1 => by
    rw [List.range_succ, List.filterMap_append, List.find?_append, find_filterMap_range f key hf n N]
    by_cases h : n < N
    · rw [if_pos h, if_pos (by omega)]
      cases hn : f n with
      | some a => rfl
      | none =>
        cases hN : f N with
        | none => simp [hN]
        | some b =>
          have := hf N b hN
          simp [hN]; omega
    · rw [if_neg h]
      by_cases h' : n = N
      · subst h'
        rw [if_pos (by omega)]
        cases hn : f n with
        | none => simp [hn]
        | some a => simp [hn, hf n a hn]
      · rw [if_neg (by omega)]
        cases hN : f N with
        | none => simp [hN]
        | some b =>
          have := hf N b hN
          simp [hN]; omega

/-- The entry of a slot in the scan's map is the page chosen for it. -/
theorem scanMap_entry (goods : List PlacedPage) (n : Nat) :
    (scanMap goods).find? (fun e => e.slot == n) =
      if n < 256 then (bestPage goods n).map fun p => { slot := n, page := p.page, gen := p.good.gen } else none :=
  find_filterMap_range
    (fun slot => (bestPage goods slot).map fun p : PlacedPage => ({ slot := slot, page := p.page, gen := p.good.gen } : SlotEntry))
    SlotEntry.slot (by intro n a h; cases hb : bestPage goods n <;> rw [hb] at h <;> cases h; rfl) n 256

/-! ### Choices among blocks -/

/-- The first of a rising list with a property is the lowest with it. -/
theorem find_rising {p : Nat → Bool} {b : Nat} : ∀ {l : List Nat}, l.Pairwise (· < ·) →
    (l.find? p = some b ↔ b ∈ l ∧ p b = true ∧ ∀ c, c ∈ l → c < b → p c = false)
  | [], _ => by simp
  | a :: l, hl => by
    obtain ⟨h1, h2⟩ := List.pairwise_cons.mp hl
    rw [List.find?_cons]
    cases ha : p a with
    | true =>
      constructor
      · intro h; cases h
        refine ⟨by simp, ha, ?_⟩
        intro c hc hlt
        rcases List.mem_cons.mp hc with e | e
        · omega
        · have := h1 c e; omega
      · rintro ⟨hb, hpb, hlow⟩
        rcases List.mem_cons.mp hb with e | e
        · rw [e]
        · have := hlow a (by simp) (h1 b e); rw [ha] at this; cases this
    | false =>
      dsimp only
      rw [find_rising h2]
      constructor
      · rintro ⟨hb, hpb, hlow⟩
        refine ⟨by simp [hb], hpb, ?_⟩
        intro c hc hlt
        rcases List.mem_cons.mp hc with e | e
        · rw [e]; exact ha
        · exact hlow c e hlt
      · rintro ⟨hb, hpb, hlow⟩
        rcases List.mem_cons.mp hb with e | e
        · rw [e, ha] at hpb; cases hpb
        · exact ⟨e, hpb, fun c hc => hlow c (by simp [hc])⟩

theorem topGen_from (b : Nat) : ∀ (l : List PlacedPage) (m : Nat),
    let out := l.foldl (fun m p => if blockOf p.page = b then max m p.good.gen.toNat else m) m
    m ≤ out ∧ (∀ p, p ∈ l → p.page / 16 = b → p.good.gen.toNat ≤ out) ∧
      (out = m ∨ ∃ p, p ∈ l ∧ p.page / 16 = b ∧ p.good.gen.toNat = out)
  | [], m => by simp
  | a :: l, m => by
    rw [List.foldl_cons]
    obtain ⟨h1, h2, h3⟩ := topGen_from b l (if blockOf a.page = b then max m a.good.gen.toNat else m)
    dsimp only at h1 h2 h3 ⊢
    by_cases hb : blockOf a.page = b
    · rw [if_pos hb] at h1 h2 h3 ⊢
      refine ⟨by omega, ?_, ?_⟩
      · intro p hp hpb
        rcases List.mem_cons.mp hp with e | e
        · subst e; omega
        · exact h2 p e hpb
      · rcases h3 with h3 | ⟨p, p1, p2, p3⟩
        · rcases Nat.le_total m a.good.gen.toNat with h | h
          · rw [Nat.max_eq_right h] at h3
            rw [Nat.max_eq_right h]
            exact .inr ⟨a, by simp, hb, h3.symm⟩
          · rw [Nat.max_eq_left h] at h3
            rw [Nat.max_eq_left h]
            exact .inl h3
        · exact .inr ⟨p, by simp [p1], p2, p3⟩
    · rw [if_neg hb] at h1 h2 h3 ⊢
      refine ⟨h1, ?_, ?_⟩
      · intro p hp hpb
        rcases List.mem_cons.mp hp with e | e
        · subst e; exact absurd hpb hb
        · exact h2 p e hpb
      · rcases h3 with h3 | ⟨p, p1, p2, p3⟩
        · exact .inl h3
        · exact .inr ⟨p, by simp [p1], p2, p3⟩

/-- The highest generation of a block's good pages bounds them and is one of them, or is 0. -/
theorem topGen_spec (l : List PlacedPage) (b : Nat) :
    (∀ p, p ∈ l → p.page / 16 = b → p.good.gen.toNat ≤ topGen l b) ∧
      (topGen l b = 0 ∨ ∃ p, p ∈ l ∧ p.page / 16 = b ∧ p.good.gen.toNat = topGen l b) :=
  (topGen_from b l 0).2

theorem openOf_from (goods : List PlacedPage) : ∀ (l : List Nat) (x : Nat), (x :: l).Pairwise (· < ·) →
    ∃ y, (l.foldl
      (fun (best : Option Nat) b =>
        match best with
        | none => some b
        | some x => if topGen goods x < topGen goods b then some b else some x) (some x)) = some y ∧
      y ∈ x :: l ∧ ∀ c, c ∈ x :: l → c ≠ y → topGen goods c < topGen goods y ∨ topGen goods c = topGen goods y ∧ y < c
  | [], x, _ => ⟨x, rfl, by simp, fun c hc hn => by simp at hc; exact absurd hc hn⟩
  | b :: l, x, hl => by
    rw [List.foldl_cons]
    obtain ⟨h1, h2⟩ := List.pairwise_cons.mp hl
    by_cases ht : topGen goods x < topGen goods b
    · obtain ⟨y, y1, y2, y3⟩ := openOf_from goods l b h2
      refine ⟨y, by dsimp only; rw [if_pos ht]; exact y1, List.mem_cons_of_mem _ y2, ?_⟩
      intro c hc hn
      rcases List.mem_cons.mp hc with e | e
      · subst e
        by_cases hby : b = y
        · subst hby; exact .inl ht
        · rcases y3 b (by simp) hby with h | h <;> exact .inl (by omega)
      · exact y3 c e hn
    · have h3 : (x :: l).Pairwise (· < ·) :=
        List.pairwise_cons.mpr ⟨fun c hc => h1 c (List.mem_cons_of_mem _ hc), (List.pairwise_cons.mp h2).2⟩
      obtain ⟨y, y1, y2, y3⟩ := openOf_from goods l x h3
      refine ⟨y, by dsimp only; rw [if_neg ht]; exact y1, ?_, ?_⟩
      · rcases List.mem_cons.mp y2 with e | e
        · simp [e]
        · simp [e]
      · intro c hc hn
        rcases List.mem_cons.mp hc with e | e
        · subst e; exact y3 _ (by simp) hn
        · rcases List.mem_cons.mp e with e | e
          · subst e
            have hx := h1 c (by simp)
            by_cases hxy : x = y
            · subst hxy; omega
            · rcases y3 x (by simp) hxy with h | h
              · exact .inl (by omega)
              · omega
          · exact y3 c (by simp [e]) hn

/-- The OPEN block among rising candidates has the highest generation, the lower number on a tie; with no candidate there is none. -/
theorem openOf_spec (goods : List PlacedPage) {l : List Nat} (hl : l.Pairwise (· < ·)) :
    (openOf goods l = none ↔ l = []) ∧
    ∀ y, openOf goods l = some y →
      y ∈ l ∧ ∀ c, c ∈ l → c ≠ y → topGen goods c < topGen goods y ∨ topGen goods c = topGen goods y ∧ y < c := by
  cases l with
  | nil => exact ⟨by simp [openOf], fun y h => by cases h⟩
  | cons x l =>
    obtain ⟨y, y1, y2, y3⟩ := openOf_from goods l x hl
    have h : openOf goods (x :: l) = some y := y1
    refine ⟨by rw [h]; simp, ?_⟩
    intro z hz
    rw [h] at hz; cases hz
    exact ⟨y2, y3⟩

end Sys2Proof.Machine
end

