-- ==== Sys2Proof/Laws/StoreEnds.lean ====
section
/-! SUPPORT. The store at a commit, at a block erase and at a recorded fault; the end of a boot record job. -/
namespace Sys2Proof.Machine

theorem markUsed_withMem (st : Store) (m) (op) (p) : ({ st with mem := m, op := op } : Store).markUsed p = { st.markUsed p with mem := m, op := op } := by
  unfold Store.markUsed Store.isUsed; split <;> rfl

theorem fillIfFull_withMem (st : Store) (m) (op) (b) : ({ st with mem := m, op := op } : Store).fillIfFull b = { st.fillIfFull b with mem := m, op := op } := by
  unfold Store.fillIfFull
  by_cases h : st.block b = .openBlock ∧ (st.fillPoint b).isNone = true
  · rw [if_pos h]
    have h' : ({ st with mem := m, op := op } : Store).block b = .openBlock ∧ (({ st with mem := m, op := op } : Store).fillPoint b).isNone = true := h
    rw [if_pos h']; rfl
  · rw [if_neg h]
    have h' : ¬ (({ st with mem := m, op := op } : Store).block b = .openBlock ∧ (({ st with mem := m, op := op } : Store).fillPoint b).isNone = true) := h
    rw [if_neg h']

theorem committed_eq (st : Store) (j : WriteJob) (page bytes) :
   ({ (({ st with mem := Mem.setPage st.mem page (programmed bytes none), op := none } : Store).markUsed page).fillIfFull (blockOf page) with
       map := insertEntry { slot := j.slot, page := page, gen := st.gen j.slot + 1#32 } st.map, taken := none } : Store) = st.committed j page bytes := by
  rw [markUsed_withMem, fillIfFull_withMem]; rfl

theorem fillIfFull_taken (st : Store) (b) : (st.fillIfFull b).taken = st.taken := by unfold Store.fillIfFull; split <;> rfl

theorem markUsed_taken (st : Store) (b) : (st.markUsed b).taken = st.taken := by unfold Store.markUsed; split <;> rfl

theorem endJob_of (s : State) (t : Taken) (h : s.store.taken = some t) (o) : s.endJob o = ({ s with store := { s.store with taken := none } } : State).deliver t.job o := by
  unfold State.endJob; rw [h]; rfl

theorem blockErased_clean (m : List Host.Cell) (b : Nat) : Mem.blockErased (Mem.eraseBlock m b []) b = true := by
  unfold Mem.blockErased Mem.eraseBlock Mem.setResidue Mem.clear Mem.window
  rw [List.all_eq_true]
  intro c hc
  simp at hc
  omega

theorem recordFault_eq (s : State) (k b) : s.recordFault k b = (({ s with store := { s.store with fault := some (match s.store.fault with
    | none => { kind := k, block := b, uptime := s.owner.uptime, more := false }
    | some f => { f with more := true }) } }.raise .S .storeFault).raise .A .storeFault) := rfl

@[simp] theorem Channel.raise_state (c : Channel) (ch e) : (c.raise ch e).state = c.state := by
  unfold Channel.raise; split
  · rfl
  · cases eventIndex ch e with
    | none => rfl
    | some i => rcases i with _ | _ | _ | i <;> rfl

/-- An event raised twice is raised once. -/
theorem Channel.raise_raise (c : Channel) (ch e) : (c.raise ch e).raise ch e = c.raise ch e := by
  by_cases h : c.state = .closed
  · rw [show c.raise ch e = c from if_pos h]; exact if_pos h
  · have opened : ∀ c : Channel, ¬ c.state = .closed →
        c.raise ch e = match eventIndex ch e with | none => c | some i => c.setFlag i true := fun c h => if_neg h
    rw [opened (c.raise ch e) (by rw [Channel.raise_state]; exact h), opened c h]
    cases eventIndex ch e with
    | none => rfl
    | some i => rcases i with _ | _ | _ | i <;> rfl

/-- A boot record job at its commit: the RAM copy takes the built record, and the asker learns OK. -/
theorem State.deliver_boot_commit (s : State) (j : WriteJob) (a : Asked) (r : BootRec) (g : Word) (hj : j.filer = .boot)
    (ha : s.boot.active = some { asked := a, built := some r }) :
    s.deliver j (.commit g) = ({ s with boot := { s.boot with active := none, record := r } } : State).changeEnded a .ok := by
  unfold State.deliver; rw [hj]; dsimp only; unfold State.bootJobEnded; rw [ha]; rfl

/-- A boot record job that ends without a commit: the RAM copy stays, and the asker learns the status. -/
theorem State.deliver_boot_fail (s : State) (j : WriteJob) (a : Asked) (r : BootRec) (st : Status) (hj : j.filer = .boot)
    (ha : s.boot.active = some { asked := a, built := some r }) (hst : st ≠ .ok) :
    s.deliver j (.fail st) = ({ s with boot := { s.boot with active := none } } : State).changeEnded a st := by
  unfold State.deliver; rw [hj]; dsimp only; unfold State.bootJobEnded; rw [ha]
  have : ¬ (JobEnd.fail st).status = .ok := hst
  simp only [this, if_false]; rfl

/-- A boot check begins: the bank is tried, and the checker is in READING. -/
theorem State.startCheck_eq (s : State) (b : Bank) (f : Bool) :
    s.startCheck b f = { s with
      boot := { (match b with | .b0 => { s.boot with tried0 := true } | .b1 => { s.boot with tried1 := true }) with
                  stage := .checking b f },
      checker := s.checker.begin .boot b } := by cases b <;> rfl

end Sys2Proof.Machine
end

