-- ==== Sys2Proof/WellFormed.lean ====
section
/-! DEFINITION. The checks that a command's operands stay within what the hardware can give. The machine itself takes any
operand (it brings a longer or shorter one to its form), so no run needs them. -/
namespace Sys2Proof

/-- What a cut can have reached: at most one 256-byte page and at most 16 pages of a block (R53). -/
def Cut.wf (c : Cut) : Bool := c.page.length ≤ 256 && c.pages ≤ 16

/-- What a page reads is 256 bytes (R53). -/
def pageReadback : Option Bytes → Bool
  | none => true
  | some p => p.length == 256

/-- What a failed erase leaves lies in the block and does not read erased (R53). -/
def eraseResidue (l : List (Nat × Byte)) : Bool := l.all fun c => c.1 < 4096 && c.2 != 0xFF#8

/-- The operands of a command are of the hardware's form. -/
def Instr.wf : Instr → Bool
  | .powerOn c | .pinReset c | .powerLoss c => c.wf
  | .readFrame n _ => 0 < n
  | .keygenEnd _ draws => !draws.isEmpty && draws.all fun d => d.length == 32
  | .randomEnd _ drawn => drawn.length == 16
  | .pageProgramDone b | .copyProgramDone b => pageReadback b
  | .pageVoidDone b => b != some 0#32
  | .blockEraseDone l | .recoveryEraseDone l => eraseResidue l
  | .manifestReadDone b => 10 ≤ b.length && b.length ≤ 746
  | .chunkReadDone b => 0 < b.length && b.length ≤ 4096
  | .pinResetRelease | .startUpLoad | .addressByte _ | .writeDataByte _ | .frameClose | .stuckLineTimerExpiry
  | .identify _ | .readEvents _ | .getSetting _ | .setSetting | .restrictGrants | .writeIdentity | .generateDeviceKeys
  | .installRoot | .seal | .readStoreHealth _ | .setGuard | .freezeGuard | .writeSlot _ | .generateKey _ | .deleteSlot _
  | .readSlotInfo _ | .verifyOwner | .endOwner | .setVerifier | .readThrottle _ | .ownerReset _ | .openKey _ | .closeKey _
  | .pinKey _ | .unpinKey _ | .listContexts _ | .sign _ | .derive _ | .releaseSecret _ | .extend _ | .readLanes _
  | .readLog _ | .quote _ | .readBootState _ | .releaseRecovery | .restartPlatform _ | .selectBank | .admitBank
  | .admissionStatus _ | .abortAdmission | .confirmBoot | .hashChunkEnd | .finishDigestEnd | .extendJobEnd
  | .verifySignatureEnd | .signJobEnd | .deriveJobEnd | .stretchEnd | .otaByteProgrammed _ | .counterBitProgrammed _
  | .lockBitProgrammed _ | .retireBitProgrammed _ | .uptimeTick | .ownerGrantIdleExpiry | .flashIdReadDone _ _ _
  | .bootPhaseBegin | .bootLanesClose | .release => true

end Sys2Proof
end

