-- ==== Sys2Proof/Tests/Slice0.lean ====
section
/-! SUPPORT. Small checks of the model: ill-formed operands, figures the manual states, and for each statement with premises
concrete states that meet them. -/
namespace Sys2Proof.Tests
open Sys2Proof Sys2Proof.Machine
set_option maxRecDepth 8000
set_option Elab.async false

/-! ### Small states -/

/-- A cut that leaves nothing undone. -/
def cut0 : Cut := { page := [], gen := 0#32, pages := 0, cells := 0#8 }

/-- A part in RELEASED with both channels open, an erased store and an open guard. -/
def up : State :=
  { State.reset with
    power := .running, hold := false,
    chS := { Channel.reset with state := .idle, grants := 3#6 },
    chA := { Channel.reset with state := .idle, grants := 0x3F#6 },
    boot := { Boot.reset with stage := .released, state := .released, mode := .normal, booted := some .b0 },
    checker := { Checker.reset with fown := false },
    guard := { lower := 1, upper := 254, invert := false, frozen := false } }

/-- The part in a boot phase. -/
def early : State :=
  { up with hold := true, chA := Channel.reset, meas := { up.meas with bootOpen := true },
            boot := { Boot.reset with stage := .waiting, state := .waiting } }

/-- A channel holds a handed-over request. -/
def asks (s : State) (ch : Chan) (code : Byte) (body : Bytes) : State :=
  s.setChan ch { s.chan ch with state := .working, work := .handed code body }

/-- The cells of a page that do not read erased. -/
def cellsOf (base : Nat) : Bytes → List Host.Cell
  | [] => []
  | b :: bs => if b = 0xFF#8 then cellsOf (base + 1) bs else (base, b) :: cellsOf (base + 1) bs

/-- A slot holds a record under generation 1, in page 0. -/
def holds (s : State) (slot : Nat) (r : Rec) : State :=
  { s with store := { s.store with
      mem := cellsOf 0 (recordPage slot 1#32 r), used := [0], blocks := s.store.blocks.set 0 .openBlock,
      map := [{ slot := slot, page := 0, gen := 1#32 }] } }

/-- A slot's generation is set without a record behind it. -/
def atGen (s : State) (slot : Nat) (g : Word) : State :=
  { s with store := { s.store with map := [{ slot := slot, page := 0, gen := g }] } }

def secret : Rec :=
  { kind := .secret, domain := some .network, flags := 4#8, needsOwner := false, mask := 0#8, composite := zeros32, label := [],
    payload := [7#8] }

def linkKey : Rec :=
  { kind := .linkKey, domain := some .platform, flags := 2#8, needsOwner := false, mask := 0#8, composite := zeros32, label := [],
    payload := List.replicate 32 9#8 }

def params : Params := { F := 1, B := 2, C := 600, L := 10, P := 1 }

/-- A verifier with a failure count. -/
def verifier (count : Nat) : Rec :=
  { kind := .verifier, domain := some .owner, flags := 0#8, needsOwner := false, mask := 0#8, composite := zeros32, label := [],
    payload := verifierPayload (List.replicate 16 1#8) (List.replicate 32 2#8) params count none }

/-- A context entry over a record. -/
def ctxOf (r : Rec) (ch : Chan) (stamp : Nat) : Ctx :=
  { slot := 1, gen := 1#32, owner := ch, kind := r.kind, domain := r.domain, flags := r.flags, needsOwner := r.needsOwner,
    mask := r.mask, pinned := false, stamp := stamp, material := r.payload }

/-- The entry 0 is LOADED. -/
def loads (s : State) (c : Ctx) : State :=
  { s with ctx := { entries := s.ctx.entries.set 0 { epoch := 0#8, ctx := some c }, counter := c.stamp } }

/-- The engine runs a job. -/
def runs (s : State) (who : Claimant) (j : Job) (dropped : Bool := false) : State :=
  { s with engine := { s.engine with running := some { who := who, job := j, dropped := dropped } } }

/-- A write job of a channel's request. -/
def jobOf (slot : Nat) (r : Rec) (f : Filer) (ch : Option Chan) : WriteJob :=
  { slot := slot, record := r, expected := none, writer := .channelRequest, chan := ch, filer := f, orphan := false }

/-- The store has a job taken and an operation in progress. -/
def stores (s : State) (j : WriteJob) (attempts : Nat) (op : ArrayOp) : State :=
  { s with store := { s.store with taken := some { job := j, attempts := attempts }, op := some op } }

/-- The one-time area has an operation in progress. -/
def burns (s : State) (op : OtaOp) (pos : Nat) : State :=
  { s with ota := { s.ota with current := some { op := op, pos := pos } } }

/-- The line stands in a state. -/
def line (s : State) (l : Line) : State := { s with link := { s.link with line := l } }

/-- An admission stands at a step, with a flash read or none. -/
def admits (a : AdmState) (f : Option FlashBusy) : State :=
  { up with checker := { up.checker with work := .admission, adm := a, claimed := true, flash := f } }

theorem some_of_any {α : Type} {o : Option α} {p : α → Bool} (h : o.any p = true) : ∃ a, o = some a ∧ p a = true := by
  cases o with
  | none => cases h
  | some a => exact ⟨a, rfl, h⟩

/-! ### Ill-formed operands are refused (WellFormed) -/

theorem test_wf_cut_page : (Instr.powerOn { cut0 with page := List.replicate 257 0#8 }).wf = false := by decide +kernel
theorem test_wf_cut_pages : (Instr.powerLoss { cut0 with pages := 17 }).wf = false := by decide +kernel
theorem test_wf_cut_pin : (Instr.pinReset { cut0 with pages := 17 }).wf = false := by decide +kernel
theorem test_wf_readFrame : (Instr.readFrame 0 true).wf = false := by decide
theorem test_wf_keygen_none : (Instr.keygenEnd true []).wf = false := by decide
theorem test_wf_keygen_short : (Instr.keygenEnd true [List.replicate 31 0#8]).wf = false := by decide
theorem test_wf_random : (Instr.randomEnd true (List.replicate 15 0#8)).wf = false := by decide
theorem test_wf_page : (Instr.pageProgramDone (some [0#8])).wf = false := by decide
theorem test_wf_copy : (Instr.copyProgramDone (some [0#8])).wf = false := by decide
theorem test_wf_void : (Instr.pageVoidDone (some 0#32)).wf = false := by decide
theorem test_wf_erase_outside : (Instr.blockEraseDone [(4096, 0#8)]).wf = false := by decide
theorem test_wf_erase_erased : (Instr.recoveryEraseDone [(0, 0xFF#8)]).wf = false := by decide
theorem test_wf_manifest_short : (Instr.manifestReadDone (List.replicate 9 0#8)).wf = false := by decide
theorem test_wf_manifest_long : (Instr.manifestReadDone (List.replicate 747 0#8)).wf = false := by decide +kernel
theorem test_wf_chunk_empty : (Instr.chunkReadDone []).wf = false := by decide
theorem test_wf_chunk_long : (Instr.chunkReadDone (List.replicate 4097 0#8)).wf = false := by decide +kernel
theorem test_wf_good : (Instr.readFrame 1 true).wf = true ∧ (Instr.pageVoidDone (some 1#32)).wf = true := by decide

/-! ### Figures the manual states -/

theorem test_no_row_gives_bits : decodeTableWord 8 0 = none := rfl
theorem test_crc : crc16 (ascii "123456789") = 0x29B1#16 := by decide +kernel
theorem test_digest_empty :
    beNat (digestOf []) = 0xe3b0c44298fc1c149afbf4c8996fb92427ae41e4649b934ca495991b7852b855 := by decide +kernel
theorem test_digest_abc :
    beNat (digestOf (ascii "abc")) = 0xba7816bf8f01cfea414140de5dae2223b00361a396177a9cb410ff61f20015ad := by decide +kernel
theorem test_digest_two_blocks :
    beNat (digestOf (ascii "abcdbcdecdefdefgefghfghighijhijkijkljklmklmnlmnomnopnopq")) =
      0x248d6a61d20638b8e5c026930c3e6039a33ce45964ff2167f6ecedd419db06c1 := by decide +kernel
theorem test_base_point_on_curve :
    onCurve 0x6b17d1f2e12c4247f8bce6e563a440f277037d812deb33a0f4a13945d898c296
      0x4fe342e2fe1a7f9b8ee7eb4a7c0f9e162bce33576b315ececbb6406837bf51f5 = true := by decide +kernel
theorem test_public_key_of_two :
    beNat ((publicKey (List.replicate 31 0#8 ++ [2#8])).take 32) =
      0x7cf27b188d034f7e8a52380304b51ac3c08969e277f21b35a60b48fc47669978 := by decide +kernel

/-! ### Premises are met: the step, the queue and the link -/

theorem witness_StepRunsTheFrontCommand :
    ({ up with pending := [.uptimeTick, .release] } : State).pending = .uptimeTick :: [.release] := rfl

theorem witness_IdleAndSettling :
    up.pending = [] ∧ up.quiet = true ∧
      ∃ t, (up.fileClaim .S .extendRecovery).settle1 = some t ∧ t.quiet = true :=
  ⟨rfl, by decide +kernel, some_of_any (by decide +kernel)⟩

theorem witness_IdleAndSettling_turns :
    ∃ u : Nat → State, (∀ i, i < 1 → (u i).settle1 = some (u (i + 1))) ∧ (u 1).quiet = true := by
  obtain ⟨-, -, t, h, q⟩ := witness_IdleAndSettling
  refine ⟨fun i => if i = 0 then up.fileClaim .S .extendRecovery else t, ?_, q⟩
  intro i hi
  obtain rfl : i = 0 := by omega
  exact h

/-- Channel A's claim waits while channel S stands first in the order without one. -/
def claiming (c : Claim) : State := up.fileClaim .A c

theorem witness_IdleAndSettling_arbiter :
    (runs up .F (.verifySig [] [] [])).engine.running ≠ none ∧ up.engine.noClaim = true ∧
      (claiming (.random 16)).engine.running = none ∧ (claiming (.random 16)).engine.order = [.S] ++ .A :: [.F] ∧
      Claimant.A ∉ [Claimant.S] ∧ Claimant.A ∉ [Claimant.F] ∧ (∀ c ∈ [Claimant.S], (claiming (.random 16)).engine.claim c = none) ∧
      (claiming (.random 16)).engine.claim .A = some { claim := .random 16, dropped := false } ∧
      (up.gather .A (.random 16)).1 = some (.random 16) ∧ (up.gather .A (.releaseCtx { entry := 0, epoch := 0#8 })).1 = none := by
  decide +kernel

theorem witness_EveryCommandAnswersAndKeepsTheQueue : ∃ t, exec .uptimeTick up = .next t := ⟨_, rfl⟩

theorem witness_EveryCommandAnswersAndKeepsTheQueue_idle :
    up.power ≠ .inReset ∧ up.power ≠ .loading ∧ ({ up with power := .off } : State).power = .off ∧ State.reset.power ≠ .running ∧
      up.link.line = .waitStart ∧ (line up (.write .S 0)).link.line = .write .S 0 ∧
      (line up .readReleased).link.line = .readReleased ∧ up.owner.idleDue = false ∧ up.boot.stage ≠ .phaseWait ∧
      up.chA.state ≠ .closed ∧ up.engine.running = none ∧ up.store.op = none ∧ up.ota.current = none ∧ up.checker.flash = none ∧
      (∀ code ∈ [0x01#8, 0x34#8, 0x63#8], up.request .S code = none ∧ up.request .A code = none) := by decide

theorem witness_AddressByteAnswersByState :
    (∃ t, exec .frameClose (line up (.write .S 1)) = .next t) ∧ up.power = .running ∧
      (∀ ch n, up.link.line ≠ .write ch n) ∧
      (0x6B#8).toNat / 2 ≠ 0x36 ∧ (0x70#8).toNat / 2 ≠ 0x37 ∧ (0x6C#8).toNat / 2 = 0x36 ∧ (0x6F#8).toNat / 2 = 0x37 ∧
      (0x6C#8).getLsbD 0 = false ∧ (0x6F#8).getLsbD 0 = true ∧
      (up.chan .S).state = .idle ∧ (State.reset.chan .A).state = .closed ∧
      ((asks up .S 1#8 []).chan .S).state = .working ∧ ((up.reply .A .ok []).chan .A).state = .replyReady :=
  ⟨⟨_, rfl⟩, rfl, nofun, by decide, by decide, by decide, by decide, by decide, by decide, rfl, rfl, rfl, rfl⟩

/-- A channel that receives a frame. -/
def receiving (lens got : Bytes) (bad : Bool) : State :=
  line (up.setChan .A { up.chA with state := .receiving, rxLen := lens, rx := got, condemned := bad }) (.write .A lens.length)

theorem witness_DataBytesFillTheRequestBuffer :
    (line up (.write .S 0)).link.line = .write .S 0 ∧ (up.chan .S).state = .idle ∧
      ((up.reply .S .ok []).chan .S).state = .replyReady ∧
      (receiving [0#8] [] false).link.line = .write .A 1 ∧ (receiving [0#8] [] false).chA.rxLen = [0#8] ∧
      (receiving [0#8, 0#8] [] true).chA.condemned = true ∧
      (receiving [0#8, 1#8] [1#8, 2#8] false).chA.rx.length < beNat [0#8, 1#8] + 2 ∧
      beNat [0#8, 1#8] + 2 ≤ (receiving [0#8, 1#8] [1#8, 2#8, 3#8] false).chA.rx.length := by decide

theorem witness_FrameCloseJudgesTheFrame :
    up.power ≠ .off ∧ (line up (.write .S 0)).link.line = .write .S 0 ∧ (up.chan .S).state ≠ .receiving ∧
      (receiving [0#8, 0#8] [] true).chA.condemned = true ∧ (receiving [0#8] [] false).chA.rxLen.length ≠ 2 ∧
      (receiving [0#8, 1#8] [1#8, 2#8] false).chA.rx.length ≠ beNat [0#8, 1#8] + 2 ∧
      [0#8, 0#8] ≠ crcBytes [0#8, 1#8, 1#8] ∧
      (receiving [0#8, 1#8] ([1#8] ++ crcBytes [0#8, 1#8, 1#8]) false).chA.rx = [1#8] ++ crcBytes [0#8, 1#8, 1#8] ∧
      [1#8].length = beNat [0#8, 1#8] ∧ (crcBytes [0#8, 1#8, 1#8]).length = 2 ∧
      permission .blank .A 1#8 = none ∧ permission .blank .A 4#8 = some .notPermitted := by decide +kernel

theorem witness_ReadsAndTheStuckLineTimer :
    (line (up.reply .S .ok [1#8]) (.readReply .S 0)).link.line = .readReply .S 0 ∧
      ((up.reply .S .ok [1#8]).chan .S).reply = some { status := .ok, body := [1#8] } ∧
      (Reply.frame { status := .ok, body := [1#8] }).length = 0 + 6 ∧
      0 + 5 < (Reply.frame { status := .ok, body := [1#8] }).length ∧
      (line up (.readNoReply .A 0)).link.line = .readNoReply .A 0 ∧
      (receiving [0#8] [] false).chA.state = .receiving ∧ (receiving [0#8, 0#8] [] true).chA.condemned = true ∧
      (line up (.write .S 0)).chS.state ≠ .receiving := by decide +kernel

theorem witness_AttentionFollowsReplyAndEvents :
    (up.reply .S .ok []).attention .S = true ∧ (up.raise .A .storeFault).attention .A = true ∧
      (up.raise .S .storeFault).attention .A = false ∧ up.attention .A = false := by decide

/-! ### Premises are met: requests answered from RAM -/

theorem witness_IdentifyReportsTheUnit : (asks up .A 1#8 []).request .A 1#8 = some [] := by decide

theorem witness_ReadEventsClearsTheFirst :
    (asks up .S 2#8 []).request .S 2#8 = some [] ∧ (asks (up.raise .S .bootFailed) .S 2#8 []).chS.ev1 = true ∧
      (asks (up.raise .S .bootDone) .S 2#8 []).chS.ev1 = false ∧ (asks (up.raise .S .bootDone) .S 2#8 []).chS.ev2 = true ∧
      (asks (up.raise .S .storeFault) .S 2#8 []).chS.ev2 = false ∧ (asks (up.raise .S .storeFault) .S 2#8 []).chS.ev3 = true ∧
      (asks up .S 2#8 []).chS.ev3 = false := by decide

theorem witness_GetSettingReportsRam :
    (∀ n ∈ [0#8, 1#8, 7#8, 8#8], (asks up .S 3#8 [n]).request .S 3#8 = some [n]) ∧ 1 ≤ (1#8).toNat ∧ (7#8).toNat ≤ 7 ∧
      7 < (8#8).toNat := by decide

theorem witness_RestrictGrantsNarrows :
    (∀ n ∈ [0#8, 63#8, 64#8], (asks up .A 5#8 [n]).request .A 5#8 = some [n]) ∧ (63#8).toNat < 64 ∧ 64 ≤ (64#8).toNat := by
  decide

/-- A store with a fault record. -/
def faulty : State :=
  { up with store := { up.store with fault := some { kind := .eraseFailed, block := some 39, uptime := 7, more := false } } }

theorem witness_ReadStoreHealthClearsTheFault :
    (asks up .S 0x20#8 []).request .S 0x20#8 = some [] ∧ up.store.fault = none ∧
      (asks faulty .A 0x20#8 []).request .A 0x20#8 = some [] ∧ faulty.store.fault.isSome = true := by decide

theorem witness_GuardRequests :
    (∀ b ∈ [[1#8, 254#8, 0#8], [1#8, 1#8, 1#8], [254#8, 254#8, 0#8], [0#8, 1#8, 0#8], [2#8, 1#8, 0#8], [1#8, 255#8, 0#8],
        [1#8, 1#8, 2#8]], (asks up .S 0x21#8 b).request .S 0x21#8 = some b) ∧
      (asks up .S 0x22#8 []).request .S 0x22#8 = some [] ∧ up.guard.frozen = false ∧
      ({ up with guard := { up.guard with frozen := true } } : State).guard.frozen = true ∧ up.guard.lower = 1 ∧
      up.guard.upper = 254 := by decide

theorem witness_GuardRequests_frozen :
    ∃ t, exec .uptimeTick { up with guard := { up.guard with frozen := true } } = .next t ∧
      ∀ cut, Instr.uptimeTick ≠ .powerOn cut ∧ Instr.uptimeTick ≠ .powerLoss cut := ⟨_, rfl, fun _ => ⟨nofun, nofun⟩⟩

theorem witness_GuardRequests_bounds :
    ∀ i ∈ [false, true], ∀ n ∈ [15, 16, 200, 201],
      ({ lower := 16, upper := 200, invert := i, frozen := true } : Guard).allows n = (i != (n == 16 || n == 200)) := by decide

theorem witness_ReadSlotInfoReportsTheRecord :
    (∀ n ∈ [1#8, 254#8], (asks up .S 0x2B#8 [n]).request .S 0x2B#8 = some [n]) ∧ up.store.keptRec 1 = none ∧
      (holds up 1 linkKey).store.keptRec 1 = some linkKey ∧ up.granted .S linkKey.domain = true ∧
      (holds up 254 secret).store.keptRec 254 = some secret ∧ up.granted .S secret.domain = false := by decide +kernel

/-- The owner grant is active and idle since uptime 0. -/
def owned : State := { up with owner := { up.owner with grant := some { slot := 1, lastUse := 0 } } }

/-- The part at an uptime. -/
def atUptime (s : State) (t : Nat) : State := { s with owner := { s.owner with uptime := t } }

theorem witness_OwnerGrantEnds :
    (asks owned .A 0x31#8 []).request .A 0x31#8 = some [] ∧ owned.owner.grant = some { slot := 1, lastUse := 0 } ∧
      (asks up .A 0x31#8 []).request .A 0x31#8 = some [] ∧ up.owner.grant = none ∧
      (atUptime owned 299).power = .running ∧ (atUptime owned 299).owner.idleDue = false ∧
      (atUptime owned 299).settings.ownerIdle ≤ 299 + 1 - 0 ∧ ¬ (atUptime owned 298).settings.ownerIdle ≤ 298 + 1 - 0 ∧
      4294967294 < 4294967295 ∧ 4294967295 ≤ (atUptime up 4294967295).owner.uptime ∧
      ({ atUptime owned 300 with owner := { (atUptime owned 300).owner with idleDue := true } } : State).owner.idleDue = true ∧
      (atUptime owned 300).settings.ownerIdle ≤ 300 - 0 := by decide

theorem witness_ThrottleArithmeticAndReport :
    1 ≤ params.F ∧ lockedOut params 10 = true ∧ lockedOut params 9 = false ∧ 0 < params.P ∧
      (59 - 0) / (params.P * 60) = 0 ∧ 0 < (60 - 0) / (params.P * 60) ∧
      (∀ n ∈ [1#8, 254#8], (asks up .A 0x33#8 [n]).request .A 0x33#8 = some [n]) ∧ up.store.keptRec 254 = none ∧
      (holds up 1 secret).store.keptRec 1 = some secret ∧ secret.kind ≠ .verifier ∧
      (holds up 1 (verifier 10)).store.keptRec 1 = some (verifier 10) ∧ goodVerifier (verifier 10) = true := by decide +kernel

/-- Five entries are LOADED, four of them pinned. -/
def fivePins : State :=
  let five : List CtxEntry := List.replicate 4 { epoch := 0#8, ctx := some { ctxOf linkKey .S 1 with pinned := true } }
  let rest : List CtxEntry := { epoch := 0#8, ctx := some (ctxOf linkKey .S 2) } :: List.replicate 7 { epoch := 0#8, ctx := none }
  { up with ctx := { entries := five ++ rest, counter := 2 } }

theorem witness_CloseAndPinKeys :
    (∀ n ∈ [0#8, 4#8, 11#8, 12#8], (asks fivePins .S 0x41#8 [n, 0#8]).request .S 0x41#8 = some [n, 0#8]) ∧ 11 < (12#8).toNat ∧
      fivePins.ctx.entries[11]? = some { epoch := 0#8, ctx := none } ∧
      fivePins.ctx.entries[4]? = some { epoch := 0#8, ctx := some (ctxOf linkKey .S 2) } ∧
      (asks fivePins .S 0x42#8 [4#8, 0#8]).request .S 0x42#8 = some [4#8, 0#8] ∧ 4 ≤ fivePins.ctx.pinnedCount ∧
      (asks fivePins .S 0x42#8 [0#8, 0#8]).request .S 0x42#8 = some [0#8, 0#8] ∧
      (loads up (ctxOf linkKey .S 1)).ctx.pinnedCount < 4 ∧
      (asks fivePins .S 0x43#8 [0#8, 0#8]).request .S 0x43#8 = some [0#8, 0#8] := by decide +kernel

theorem witness_CloseAndPinKeys_stale :
    (∀ n ∈ [11#8, 12#8], (asks fivePins .S 0x42#8 [n, 0#8]).request .S 0x42#8 = some [n, 0#8] ∧
      (asks fivePins .S 0x43#8 [n, 0#8]).request .S 0x43#8 = some [n, 0#8]) ∧
      fivePins.ctx.entries[11]? = some { epoch := 0#8, ctx := none } ∧
      (asks fivePins .A 0x42#8 [0#8, 0#8]).request .A 0x42#8 = some [0#8, 0#8] ∧
      (ctxOf linkKey .S 1).owner ≠ .A := by decide +kernel

theorem witness_ListContextsReportsTheTable :
    (asks fivePins .S 0x44#8 []).request .S 0x44#8 = some [] ∧
      (asks fivePins .S 0x44#8 []).ctx.entries[4]? = some { epoch := 0#8, ctx := some (ctxOf linkKey .S 2) } ∧
      (ctxOf linkKey .S 2).owner = .S := by decide

theorem witness_ReadLanesAndReadLog :
    (asks up .A 0x51#8 []).request .A 0x51#8 = some [] ∧
      (∀ b ∈ [[0#8, 1#8], [47#8, 16#8], [48#8, 1#8], [0#8, 0#8], [0#8, 17#8]],
        (asks up .S 0x52#8 b).request .S 0x52#8 = some b) := by decide

theorem witness_BootAndAdmissionStatus :
    (asks up .A 0x60#8 []).request .A 0x60#8 = some [] ∧ (asks up .A 0x71#8 []).request .A 0x71#8 = some [] ∧
      up.checker.adm = .idle ∧ (asks (admits .hashing none) .S 0x71#8 []).request .S 0x71#8 = some [] ∧
      (admits .hashing none).checker.adm = .hashing ∧ (admits .checking none).checker.manDigest = none ∧
      (admits .passed none).checker.adm = .passed ∧ (admits .failed none).checker.adm = .failed := by decide

theorem witness_BodiesOfEmptyRequestsAreRefused :
    up.quiet = true ∧ (asks up .S 1#8 [0#8]).quiet = true ∧ (asks up .S 1#8 [0#8]).request .S 1#8 = some [0#8] ∧
      (asks up .S 0x11#8 [0#8]).request .S 0x11#8 = some [0#8] ∧
      (asks up .A 0x31#8 [0#8]).request .A 0x31#8 = some [0#8] := by decide +kernel

/-! ### Premises are met: requests that file work -/

/-- A request stands alone: nothing else is left to start. -/
def alone (s : State) (ch : Chan) (code : Byte) (body : Bytes) : Bool :=
  (asks s ch code body).quiet && (asks s ch code body).request ch code == some body

/-- Nothing keeps a write from starting: the store is idle and page 0 of block 0 takes the record. -/
def roomy (s : State) : Bool := s.store.idle && s.store.place == some (s.store.setBlock 0 .openBlock, 0)

theorem witness_SetSettingFilesTheWrite :
    (∀ n ∈ [0#8, 1#8, 3#8, 7#8, 8#8], alone up .S 4#8 (n :: [0#8, 0#8, 1#8, 0#8]) = true) ∧ roomy up = true ∧
      up.store.gen 0 ≠ 0xFFFFFFFF#32 ∧ (atGen up 0 0xFFFFFFFF#32).store.gen 0 = 0xFFFFFFFF#32 ∧
      alone (atGen up 0 0xFFFFFFFF#32) .S 4#8 [7#8, 0#8, 0#8, 0#8, 0#8] = true ∧
      (atGen up 0 0xFFFFFFFF#32).store.idle = true := by decide +kernel

/-- The part in a lifecycle, with device keys, present roots and lock bits as given. -/
def inLife (lc : Lifecycle) (keys : Bool) (root : Bool) (locks : BitVec 5) : State :=
  { up with ota := { up.ota with
      cells := { up.ota.cells with locks := locks }, lifecycle := lc, keysExist := keys,
      roots := { present := root, digest := List.replicate 32 0xFF#8 } :: up.ota.roots.tail } }

theorem witness_ProvisioningRequestsAreTaken :
    alone up .S 0x10#8 (List.replicate 20 0#8) = true ∧ alone up .S 0x10#8 (List.replicate 21 0#8) = true ∧
      up.ota.lifecycle = .blank ∧ up.ota.current = none ∧ up.ota.cells.locked 0 = false ∧
      alone (inLife .sealed true true 7#5) .S 0x10#8 (List.replicate 21 0#8) = true ∧
      (inLife .sealed true true 7#5).ota.lifecycle ≠ .blank ∧
      alone up .S 0x11#8 [] = true ∧ alone (inLife .personalized true true 0#5) .S 0x11#8 [] = true ∧
      (inLife .personalized false true 2#5).ota.cells.locked 1 = true ∧
      alone (inLife .personalized false false 0#5) .S 0x11#8 [] = true ∧
      (inLife .personalized false false 0#5).ota.cells.spoiled = false ∧
      ({ up.ota.cells with seed := List.replicate 32 0#8 } : Cells).spoiled = true ∧
      (inLife .personalized false false 0#5).engine.free = true ∧
      alone up .S 0x12#8 (List.replicate 63 1#8) = true ∧ alone up .S 0x12#8 (List.replicate 64 1#8) = true ∧
      alone (inLife .sealed true true 7#5) .S 0x12#8 (List.replicate 64 1#8) = true ∧
      (inLife .personalized true true 4#5).ota.cells.locked 2 = true ∧ up.ota.cells.locked 2 = false ∧ up.engine.free = true ∧
      alone (inLife .personalized true true 0#5) .S 0x13#8 [] = true ∧ (inLife .personalized true true 0#5).ota.rootCount ≠ 0 ∧
      (inLife .personalized true false 0#5).ota.rootCount = 0 ∧ alone (inLife .personalized true true 4#5) .S 0x13#8 [] = true ∧
      (inLife .personalized true true 4#5).ota.cells.locked 1 = false ∧ (inLife .personalized true true 6#5).ota.cells.locked 1 = true ∧
      (inLife .personalized true true 6#5).ota.cells.locked 0 = false := by decide +kernel

theorem witness_OneTimeProgrammingSteps :
    (burns up (.identity (List.replicate 64 5#8)) 0).quiet = true ∧
      (OtaOp.identity (List.replicate 64 5#8)).byteAt 0 = some 5#8 ∧
      (up.ota.cells.prog (.identity (List.replicate 64 5#8)) 0 5#8 0#8).target (.identity (List.replicate 64 5#8)) 0 = 5#8 ∧
      (OtaOp.identity (List.replicate 64 5#8)).byteAt 1 = some 5#8 ∧
      (up.ota.cells.prog (.identity (List.replicate 64 5#8)) 255 5#8 2#8).target (.identity (List.replicate 64 5#8)) 255 ≠ 5#8 ∧
      byteAt (List.replicate 64 5#8) 63 = 5#8 ∧
      byteAt ((up.ota.cells.page0.set 255 (byteAt up.ota.cells.page0 255 &&& (5#8 ||| 0#8)))) 255 = 5#8 ∧
      ({ up.ota with cells := { up.ota.cells with page0 := up.ota.cells.page0.set 255 5#8 }, current := none } : Ota).judge.rootCount =
        up.ota.rootCount ∧ up.ota.queue = [] ∧
      (burns up (.advance .loader 2 .confirm) 0).quiet = true ∧ 0 + 1 < min 2 Counter.loader.top ∧
      254 + 1 ≥ min 300 Counter.loader.top ∧ up.ota.cells.counterBit .loader 254 = true ∧
      (burns up .seal 0).quiet = true ∧
      ({ up.ota.cells with locks := up.ota.cells.locks ||| 1#5 <<< (2 - 0) } : Cells).nextLock 1 = some 1 ∧
      ({ up.ota.cells with locks := 3#5 ||| 1#5 <<< (2 - 0) } : Cells).nextLock 1 = none ∧
      ({ up.ota.cells with locks := 6#5 ||| 1#5 <<< (2 - 2) } : Cells).nextLock 3 = none ∧
      up.ota.cells.locked (2 - 2) = false ∧ ({ up.ota with current := none } : Ota).judge.rootCount = up.ota.rootCount ∧
      (burns up (.retire 39) 0).quiet = true ∧ up.store.marksHeld = [] ∧ up.ota.cells.retired.getLsbD 39 = true := by
  decide +kernel

/-- The one-time RAM after the last byte of root 3. -/
def rootBurnt : Ota :=
  ({ up.ota with cells := { up.ota.cells with roots := up.ota.cells.roots.set 3 { digest := zeros32, marker := 0#8 } } } : Ota).judge

theorem witness_OneTimeProgrammingSteps_ends :
    (burns up (.keys zeros32) 64).quiet = true ∧ zeros32.length = 32 ∧ up.ota.cells.keysMarker &&& 0#8 = 0#8 ∧
      (burns up (.root 3 zeros32) 32).quiet = true ∧ up.ota.cells.roots[3]? = some { digest := List.replicate 32 0xFF#8, marker := 0xFF#8 } ∧
      ({ up.ota with cells := { up.ota.cells with keysMarker := 0#8 }, current := none } : Ota).judge.keysExist = false ∧
      ({ up.ota with cells := { up.ota.cells with keysMarker := 0#8, seed := zeros32 }, current := none } : Ota).judge.keysExist = true ∧
      rootBurnt.rootCount ≠ up.ota.rootCount ∧ 0 < rootBurnt.rootCount ∧
      early.boot.stage = .waiting ∧ up.boot.stage ≠ .waiting ∧ up.ota.cells.lifecycle ≠ .failed ∧
      (burns up (.advance .loader 2 .confirm) 1).quiet = true ∧ 1 + 1 = min 2 Counter.loader.top ∧
      254 + 1 = min 255 Counter.loader.top ∧ 63 + 1 = min 64 Counter.ownerEpoch.top := by decide +kernel

/-- The cells after a programming step. -/
def afterByte (op : OtaOp) (pos : Nat) (v stuck : Byte) : Cells := up.ota.cells.prog op pos v stuck

theorem witness_OneTimeProgrammingSteps_failing :
    (∀ p ∈ [0, 63, 64, 255], (burns up (.identity zeros32) p).quiet = true ∧
      byteAt (up.ota.cells.page0.set p (byteAt up.ota.cells.page0 p &&& (byteAt zeros32 (p % 64) ||| 2#8))) p ≠
        byteAt zeros32 (p % 64)) ∧
      (∀ p ∈ [0, 31], byteAt (afterByte (.keys zeros32) p 0#8 1#8).seed p ≠ byteAt zeros32 p) ∧
      (∀ p ∈ [32, 63], byteAt (up.ota.cells.seedCompl.set (p - 32) 0xFE#8) (p - 32) ≠ ~~~ byteAt zeros32 (p - 32)) ∧
      (∀ m ∈ [0xFF#8, 1#8], up.ota.cells.keysMarker &&& m ≠ 0#8) ∧
      ({ up.ota with cells := { up.ota.cells with keysMarker := 1#8 }, current := none } : Ota).judge.rootCount =
        up.ota.rootCount ∧
      (burns { up with ota := { up.ota with cells := { up.ota.cells with seed := zeros32 } } } (.keys zeros32) 64).quiet = true ∧
      up.ota.cells.seedCompl = zeros32.map (~~~ ·) ∧ up.ota.cells.seedCompl ≠ up.ota.cells.seed.map (~~~ ·) := by
  decide +kernel

theorem witness_OneTimeProgrammingSteps_failing_root :
    (∀ p ∈ [0, 31, 32], (burns early (.root 3 zeros32) p).quiet = true) ∧
      (∀ p ∈ [0, 31], byteAt ((List.replicate 32 0xFF#8).set p (0xFF#8 &&& (byteAt zeros32 p ||| 1#8))) p ≠ byteAt zeros32 p) ∧
      (∀ m ∈ [0xFF#8, 1#8], (0xFF#8 : Byte) &&& m ≠ 0#8) ∧
      early.ota.cells.roots[3]? = some { digest := List.replicate 32 0xFF#8, marker := 0xFF#8 } ∧
      ({ early.ota with cells := afterByte (.root 3 zeros32) 32 0#8 1#8, current := none } : Ota).judge.rootCount = 1 ∧
      ({ early.ota with cells := afterByte (.root 3 zeros32) 32 0#8 0xFF#8, current := none } : Ota).judge.rootCount = 0 ∧
      early.ota.rootCount = 0 ∧ early.boot.stage = .waiting ∧
      (afterByte (.root 3 zeros32) 32 0#8 1#8).lifecycle ≠ .failed := by decide +kernel

theorem witness_ArgumentLayouts :
    zeros32.length = 32 ∧ (List.replicate 24 1#8).length < 256 ∧ 1 ≤ (List.replicate 64 1#8).length ∧
      (List.replicate 64 1#8).length ≤ 64 ∧ (7#8).toNat ≤ 7 ∧ (List.replicate 16 1#8).length ≤ 16 ∧
      8 ≤ (List.replicate 8 1#8).length ∧ (List.replicate 32 1#8).length ≤ 32 ∧ (11#8).toNat ≤ 11 := by decide

theorem test_clamped_parameters :
    ({ F := 16, B := 0, C := 0, L := 3, P := 10081 } : Params).clamped = { F := 15, B := 1, C := 1, L := 16, P := 10080 } ∧
      ({ F := 5, B := 255, C := 86401, L := 0, P := 0 } : Params).clamped = { F := 5, B := 255, C := 86400, L := 0, P := 0 } := by
  decide

/-- A WRITE SLOT body over PLATFORM or NETWORK with no expected generation. -/
def slotBody (slot : Byte) (r : Rec) (g : Bytes) : Bytes :=
  [slot, r.kind.code, domainCode r.domain, r.flags, flagByte r.needsOwner, r.mask, 0#8, byte r.payload.length] ++ r.payload ++ g

/-- Arguments of a slot request. -/
def slotArgs (slot : Nat) (r : Rec) (g : Option Word) : SlotArgs := { slot := slot, r := r, expected := g }

theorem witness_SlotWritesAndDeletes_checks :
    parseSlotArgs (slotBody 0#8 linkKey [0#8]) = some (slotArgs 0 linkKey none) ∧
      goodWriteArgs (slotArgs 0 linkKey none) = false ∧ goodSlotFields { linkKey with flags := 8#8 } = false ∧
      parseSlotArgs (slotBody 254#8 linkKey [1#8, 0#8, 0#8, 0#8, 1#8]) = some (slotArgs 254 linkKey (some 1#32)) ∧
      alone up .S 0x28#8 (slotBody 0#8 linkKey [0#8]) = true ∧
      alone up .S 0x28#8 (slotBody 254#8 linkKey [1#8, 0#8, 0#8, 0#8, 1#8]) = true ∧
      goodWriteArgs (slotArgs 254 linkKey (some 1#32)) = true ∧ goodSlotFields linkKey = true ∧
      up.mayWrite .S linkKey.domain = true ∧ up.mayWrite .S secret.domain = false ∧ goodSlotFields secret = true ∧
      up.store.idle = true ∧ 1#32 ≠ up.store.gen 254 ∧ up.guard.allows 254 = true ∧ Guard.powerOn.allows 254 = false ∧
      up.store.gen 254 ≠ 0xFFFFFFFF#32 ∧ roomy up = true ∧ up.store.keptRec 254 = none := by decide +kernel

theorem witness_SlotWritesAndDeletes_over :
    alone (holds up 1 (verifier 0)) .S 0x28#8 (slotBody 1#8 linkKey [0#8]) = true ∧
      (holds up 1 (verifier 0)).store.keptRec 1 = some (verifier 0) ∧ (holds up 1 (verifier 0)).store.idle = true ∧
      (holds up 1 secret).store.keptRec 1 = some secret ∧ up.mayWrite .S secret.domain = false ∧
      (holds up 1 linkKey).store.keptRec 1 = some linkKey ∧ (holds up 1 linkKey).store.place.isSome = true := by decide +kernel

theorem witness_SlotWritesAndDeletes_generate :
    goodGenerateArgs (slotArgs 1 linkKey none) = false ∧ goodGenerateArgs (slotArgs 1 { linkKey with payload := [] } none) = true ∧
      parseSlotArgs (slotBody 1#8 { linkKey with payload := [] } [0#8]) = some (slotArgs 1 { linkKey with payload := [] } none) ∧
      alone up .S 0x29#8 (slotBody 1#8 { linkKey with payload := [] } [0#8]) = true ∧ up.engine.free = true ∧
      (∀ n ∈ [1#8, 254#8], alone up .S 0x2A#8 [n, 0#8] = true) ∧ up.store.keptRec 1 = none ∧
      alone (holds up 1 linkKey) .S 0x2A#8 [1#8, 0#8] = true ∧
      (holds up 1 linkKey).mayWrite .S linkKey.domain = true ∧ up.mayWrite .S (some .owner) = false ∧
      alone (holds up 254 secret) .S 0x2A#8 [254#8, 0#8] = true ∧ up.mayWrite .S secret.domain = false := by decide +kernel

theorem witness_SlotWritesAndDeletes_tables :
    owned.owner.grant = some { slot := 1, lastUse := 0 } ∧ owned.mayWrite .A (some .owner) = true ∧
      up.mayWrite .A (some .owner) = false ∧ owned.mayWrite .S (some .owner) = false ∧ owned.mayWrite .A (some .update) = false := by
  decide

/-! ### Premises are met: the store's array operations -/

/-- A job of WRITE SLOT whose page is being programmed. -/
def programming (attempts : Nat) : State :=
  stores up (jobOf 1 linkKey .writeSlot (some .S)) attempts (.program 0 (recordPage 1 1#32 linkKey))

theorem witness_PageProgramAndVoid :
    (programming 0).store.op = some (.program 0 (recordPage 1 1#32 linkKey)) ∧
      (programming 0).store.taken = some { job := jobOf 1 linkKey .writeSlot (some .S), attempts := 0 } ∧
      linkKey.kind ≠ .empty ∧ fit 256 0xFF#8 [0#8] ≠ fit 256 0xFF#8 (recordPage 1 1#32 linkKey) ∧
      (stores up (jobOf 1 linkKey .writeSlot (some .S)) 2 (.void 639)).store.op = some (.void 639) ∧ 2 < 3 ∧
      (stores up (jobOf 1 linkKey .writeSlot (some .S)) 3 (.void 0)).store.taken =
        some { job := jobOf 1 linkKey .writeSlot (some .S), attempts := 3 } ∧
      ({ up with store := { up.store with op := some (.copyVoid 16) } } : State).store.op = some (.copyVoid 16) := by decide +kernel

theorem witness_PageProgramAndVoid_tombstone :
    ({ (holds up 1 linkKey).store with
        mem := Mem.setPage (holds up 1 linkKey).store.mem 1 (fit 256 0xFF#8 (recordPage 1 2#32 tombstone)) } : Store).liveRec 1 =
        some linkKey ∧ linkKey.kind ≠ .verifier ∧ (jobOf 0 linkKey .writeSlot (some .S)).slot = 0 ∧
      255 ≤ (jobOf 255 linkKey .boot none).slot := by decide +kernel

theorem witness_CommitNotices :
    (jobOf 1 linkKey .writeSlot (some .S)).orphan = false ∧ (jobOf 1 linkKey .writeSlot (some .S)).chan = some .S ∧
      ((up.setWork .S (.generateStore none)).chan .S).work = .generateStore none ∧
      (jobOf 0 linkKey (.settings 7 63) (some .S)).filer = .settings 7 63 ∧
      (stores (holds up 254 (verifier 3)) (jobOf 254 tombstone .deleteSlot (some .A)) 0
        (.program 1 (recordPage 254 2#32 tombstone))).store.op = some (.program 1 (recordPage 254 2#32 tombstone)) ∧
      tombstone.kind = .empty ∧
      ({ (holds up 254 (verifier 3)).store with
          mem := Mem.setPage (holds up 254 (verifier 3)).store.mem 1 (fit 256 0xFF#8 (recordPage 254 2#32 tombstone)) } : Store).liveRec
        254 = some (verifier 3) ∧ (verifier 3).kind = .verifier := by decide +kernel

theorem witness_CommitNotices_ends :
    (jobOf 1 (verifier 0) .matchWrite (some .A)).filer = .matchWrite ∧
      (jobOf 1 (verifier 0) .matchWrite (some .A)).orphan = false ∧
      (up.setWork .A (.verifyMatch 3)).chA.work = .verifyMatch 3 ∧
      ({ jobOf 1 (verifier 3) .precharge (some .A) with orphan := true } : WriteJob).orphan = true ∧
      (∀ n cand before, up.chA.work ≠ .verifyPrecharge n cand before) ∧
      (up.setWork .A (.verifyPrecharge 1 [5#8] none)).chA.work = .verifyPrecharge 1 [5#8] none :=
  ⟨rfl, rfl, rfl, rfl, nofun, rfl⟩

theorem witness_CommitNotices_fails :
    (jobOf 254 linkKey .generateKey (some .S)).filer = .generateKey ∧ (jobOf 254 linkKey .generateKey (some .S)).chan = some .S ∧
      ((up.setWork .S (.generateStore none)).chan .S).work = .generateStore none ∧
      (jobOf 1 (verifier 0) .setVerifier (some .A)).filer = .setVerifier ∧ (jobOf 1 (verifier 0) .setVerifier (some .A)).chan = some .A ∧
      (jobOf 0 linkKey (.settings 1 0) (some .S)).filer = .settings 1 0 ∧ (jobOf 0 linkKey (.settings 1 0) (some .S)).chan = some .S :=
  ⟨rfl, rfl, rfl, rfl, rfl, rfl, rfl⟩

/-- A compaction of block 1 into block 2. -/
def compacting (live : List Nat) (op : Option ArrayOp) : State :=
  { up with store := { up.store with
      comp := some { victim := 1, target := 2 }, op := op, used := live,
      blocks := (up.store.blocks.set 1 .filled).set 2 .spare,
      map := live.map fun p => { slot := p, page := p, gen := 1#32 } } }

theorem witness_CompactionCopiesAndErases :
    (compacting [16] (some (.copy 16 32 []))).store.op = some (.copy 16 32 []) ∧ fit 256 0xFF#8 [0#8] ≠ fit 256 0xFF#8 [] ∧
      (pagesOf 1).find? (compacting [31] none).store.isLive = some 31 ∧ (compacting [31] none).store.fillPoint 2 = some 32 ∧
      (pagesOf 1).find? (compacting [] none).store.isLive = none ∧ (compacting [] none).store.firstBlock .openBlock = none ∧
      (compacting [] (some (.erase 1))).store.op = some (.erase 1) ∧
      Mem.blockErased (Mem.eraseBlock up.store.mem 39 []) 39 = true ∧
      Mem.blockErased (Mem.eraseBlock up.store.mem 39 [(4095, 0#8)]) 39 = false ∧
      ({ up.store with blocks := up.store.blocks.set 39 .retired } : Store).firstBlock .free = some 0 ∧
      ({ up with store := { up.store with op := some (.recoveryErase 39) } } : State).store.op = some (.recoveryErase 39) ∧
      (recordPage 254 1#32 linkKey).length = 256 ∧
      parsePage (recordPage 254 1#32 linkKey) = some { slot := 254, gen := 1#32, r := linkKey } := by
  decide +kernel

/-- The target of a compaction has no ERASED page left, and every other block is in a state. -/
def exhausted (x : BlockState) : State :=
  let s := compacting [31] none
  { s with store := { s.store with used := 31 :: pagesOf 2, blocks := List.replicate 40 x } }

theorem witness_CompactionCopiesAndErases_ends :
    ({ (compacting [] none).store with blocks := up.store.blocks.set 39 .openBlock } : Store).firstBlock .openBlock = some 39 ∧
      (pagesOf 1).find? (exhausted .free).store.isLive = some 31 ∧ (exhausted .free).store.fillPoint 2 = none ∧
      ({ (exhausted .free).store with blocks := (exhausted .free).store.blocks.set 2 .filled } : Store).firstBlock .free = some 0 ∧
      ({ (exhausted .filled).store with blocks := (exhausted .filled).store.blocks.set 2 .filled } : Store).firstBlock .free = none ∧
      ({ up.store with blocks := (List.replicate 40 .filled).set 39 .retired } : Store).firstBlock .free = none := by
  decide +kernel

/-! ### Premises are met: the owner verification unit -/

/-- An entry of the hold-off table is set. -/
def heldOff (s : State) (slot count till last : Nat) : State :=
  s.setHold { slot := slot, count := count, holdUntil := till, lastEvent := last }

/-- The body of VERIFY OWNER with a one-byte candidate. -/
def tryBody (slot : Byte) : Bytes := [slot, 1#8, 5#8]

theorem witness_AttemptsAreChargedFirst_refusals :
    (∀ n ∈ [1#8, 254#8], alone up .A 0x30#8 (tryBody n) = true) ∧ up.granted .A (some .owner) = true ∧
      ({ up with chA := { up.chA with grants := 0#6 } } : State).granted .A (some .owner) = false ∧
      up.store.keptRec 254 = none ∧ alone (holds up 1 secret) .A 0x30#8 (tryBody 1#8) = true ∧
      (holds up 1 secret).store.keptRec 1 = some secret ∧ secret.kind ≠ .verifier := by decide +kernel

theorem witness_AttemptsAreChargedFirst_verifier :
    alone (holds up 1 (verifier 3)) .A 0x30#8 (tryBody 1#8) = true ∧
      (holds up 1 (verifier 3)).store.keptRec 1 = some (verifier 3) ∧ goodVerifier (verifier 3) = true ∧
      (verifier 3).domain = some .owner ∧ (verifierParams (verifier 3).payload).L = 10 ∧
      10 ≤ ((heldOff up 1 10 0 0).holdOf 1).count ∧ ¬ 10 ≤ ((heldOff up 1 9 600 0).holdOf 1).count ∧
      (heldOff up 1 9 600 0).owner.uptime < (decayed params 0 ((heldOff up 1 9 600 0).holdOf 1)).holdUntil ∧
      (decayed params 0 ((heldOff up 1 9 0 0).holdOf 1)).holdUntil ≤ up.owner.uptime ∧
      (holds up 1 (verifier 3)).store.idle = true ∧ (holds up 1 (verifier 3)).store.gen 1 ≠ 0xFFFFFFFF#32 ∧
      (holds up 1 (verifier 3)).store.place.isSome = true := by decide +kernel

theorem witness_AttemptsAreChargedFirst_precharge :
    (jobOf 1 (verifier 10) .precharge (some .A)).orphan = false ∧
      10 ≤ verifierCount (jobOf 1 (verifier 10) .precharge (some .A)).record.payload ∧
      ¬ 10 ≤ verifierCount (jobOf 1 (verifier 9) .precharge (some .A)).record.payload ∧
      (up.setWork .A (.verifyPrecharge 1 [5#8] none)).chA.work = .verifyPrecharge 1 [5#8] none := by decide +kernel

theorem witness_StretchDecidesTheAttempt (salt cand : Bytes) :
    ∃ (s : State) (r r' : Rec),
      s.engine.running = some { who := .A, job := .stretch salt cand, dropped := false } ∧
      s.chA.work = .verifyStretch 1 r ∧ stretchOf salt cand = slice r.payload 16 32 ∧
      stretchOf salt cand ≠ slice r'.payload 16 32 ∧
      ((s.setWork .A (.verifierStretch 1 salt params none)).chA.work = .verifierStretch 1 salt params none) := by
  let r : Rec := { verifier 1 with payload := List.replicate 16 0#8 ++ stretchOf salt cand }
  let b : Bool := stretchOf salt cand == zeros32
  let r' : Rec := { verifier 1 with payload := List.replicate 48 (if b then 1#8 else 0#8) }
  refine ⟨(runs up .A (.stretch salt cand)).setWork .A (.verifyStretch 1 r), r, r', rfl, rfl, ?_, ?_, rfl⟩
  · have h32 := stretchOf_length salt cand
    show stretchOf salt cand = fit 32 0#8 ((List.replicate 16 0#8 ++ stretchOf salt cand).drop 16)
    simp [fit, h32, List.take_of_length_le]
  · show stretchOf salt cand ≠ slice (List.replicate 48 (if b then 1#8 else 0#8)) 16 32
    cases hb : b with
    | true =>
      have : stretchOf salt cand = zeros32 := by simpa [b] using hb
      rw [this]; decide
    | false =>
      intro h
      have : stretchOf salt cand ≠ zeros32 := by simpa [b] using hb
      exact this (h.trans (by decide))

/-- The body of SET VERIFIER with a one-byte password and the parameters of these tests. -/
def setBody (slot : Byte) : Bytes := [slot, 1#8, 5#8, 1#8, 1#8, 2#8, 0#8, 0#8, 2#8, 0x58#8, 10#8, 0#8, 1#8, 0#8]

/-- The arguments that body carries. -/
def setArgs (slot : Nat) : SetVerifierArgs := { slot := slot, password := [5#8], params := params, expected := none }

theorem witness_SetVerifierDrawsASalt :
    (∀ n ∈ [1#8, 254#8], alone up .A 0x32#8 (setBody n) = true ∧ parseSetVerifier (setBody n) = some (setArgs n.toNat)) ∧
      ({ up with chA := { up.chA with grants := 0#6 } } : State).granted .A (some .owner) = false ∧
      alone (holds up 1 (verifier 3)) .A 0x32#8 (setBody 1#8) = true ∧ up.owner.grant = none ∧
      (holds up 1 (verifier 3)).store.anyVerifier = true ∧ up.granted .A (some .owner) = true ∧
      up.store.anyVerifier = false ∧ owned.owner.grant.isSome = true ∧
      (holds owned 1 (verifier 3)).store.keptRec 1 = some (verifier 3) ∧ goodVerifier (verifier 3) = true ∧
      10 ≤ ((heldOff up 1 10 0 0).holdOf 1).count ∧ up.store.keptRec 1 = none ∧ up.engine.free = true ∧
      (runs up .A (.random 16)).engine.running = some { who := .A, job := .random 16, dropped := false } ∧
      (up.setWork .A (.verifierRandom 1 [5#8] params none)).chA.work = .verifierRandom 1 [5#8] params none ∧
      (List.replicate 16 1#8).length = 16 := by decide +kernel

theorem witness_OwnerResetNeedsTheButton :
    alone up .S 0x34#8 [] = true ∧ up.boot.state = .released ∧ alone early .S 0x34#8 [] = true ∧
      early.boot.state ≠ .released ∧ early.ota.current = none ∧ early.ota.epoch < 64 ∧
      ({ early.ota with epoch := 63 } : Ota).epoch < 64 ∧ early.ota.cells.locked 3 = false := by decide +kernel

theorem witness_OwnerResetNeedsTheButton_walk :
    (early.setWork .S .resetEpoch).chS.work = .resetEpoch ∧ (holds early 254 (verifier 3)).store.liveRec 254 = some (verifier 3) ∧
      (verifier 3).kind = .verifier ∧ (verifier 3).domain = some .owner ∧ (holds early 1 linkKey).store.liveRec 1 = some linkKey ∧
      linkKey.domain ≠ some .owner ∧ (jobOf 1 tombstone .ownerReset (some .S)).filer = .ownerReset ∧
      (early.setWork .S (.resetWalk 254 1 0 .ok)).chS.work = .resetWalk 254 1 0 .ok ∧ Status.storeFault ≠ .wrongState := by
  decide +kernel

/-! ### Premises are met: key contexts, measurement and attestation -/

/-- Twelve LOADED entries, the last with the smallest stamp. -/
def fullTable : State :=
  let l : List CtxEntry := (List.range 12).map fun i => { epoch := 0#8, ctx := some (ctxOf linkKey .S (20 - i)) }
  { holds up 1 linkKey with ctx := { entries := l, counter := 30 } }

theorem witness_OpenKeyLoadsOrCompares_checks :
    (∀ n ∈ [1#8, 254#8], alone up .S 0x40#8 [n] = true) ∧ up.store.keptRec 254 = none ∧
      alone (holds up 1 (verifier 0)) .A 0x40#8 [1#8] = true ∧
      (holds up 1 (verifier 0)).store.keptRec 1 = some (verifier 0) ∧ (verifier 0).kind = .verifier ∧
      openable linkKey = true ∧ openable secret = true ∧ up.granted .S secret.domain = false ∧
      alone (holds up 1 secret) .S 0x40#8 [1#8] = true ∧ (holds up 1 secret).store.keptRec 1 = some secret ∧
      (holds up 1 { secret with needsOwner := true }).store.keptRec 1 = some { secret with needsOwner := true } ∧
      up.granted .A secret.domain = true ∧ up.owner.grant = none ∧ owned.owner.grant.isSome = true := by decide +kernel

theorem witness_OpenKeyLoadsOrCompares_loads :
    alone (holds up 1 linkKey) .S 0x40#8 [1#8] = true ∧ (holds up 1 linkKey).store.keptRec 1 = some linkKey ∧
      linkKey.mask = 0#8 ∧ up.ctx.counter < 4294967295 ∧ up.ctx.entries[0]? = some { epoch := 0#8, ctx := none } ∧
      ((holds up 1 { linkKey with mask := 1#8 }).store.keptRec 1).any (fun r => r.mask != 0#8) = true ∧
      up.engine.free = true ∧ alone fullTable .S 0x40#8 [1#8] = true ∧ fullTable.ctx.entries.length = 12 ∧
      (∀ e ∈ fullTable.ctx.entries, e.ctx ≠ none) ∧
      fullTable.ctx.entries[11]? = some { epoch := 0#8, ctx := some (ctxOf linkKey .S 9) } ∧
      (∀ k ∈ List.range 11, (fullTable.ctx.entries[k]?.bind (·.ctx)).any (fun x => 9 < x.stamp) = true) := by decide +kernel

/-- A signing key's context with a use flag. -/
def signer (flags : Byte) : Ctx :=
  { ctxOf linkKey .S 1 with kind := .signingKey, flags := flags, material := List.replicate 96 1#8 }

theorem witness_UsesOfAKeyAtTheirGrant :
    (∀ n ∈ [0#8, 11#8], alone up .S 0x45#8 (n :: 0#8 :: zeros32) = true) ∧ up.engine.free = true ∧
      up.ctx.counter < 4294967295 ∧ alone up .S 0x46#8 (0#8 :: 0#8 :: 64#8 :: List.replicate 64 1#8) = true ∧
      alone up .S 0x46#8 [0#8, 0#8, 0#8] = true ∧ alone up .S 0x47#8 [0#8, 0#8] = true ∧
      up.ctx.entries[0]? = some { epoch := 0#8, ctx := none } ∧
      (loads up (signer 1#8)).ctx.entries[0]? = some { epoch := 0#8, ctx := some (signer 1#8) } ∧
      (loads up (signer 1#8)).ctx.counter < 4294967295 ∧ (signer 1#8).flags.getLsbD 0 = true ∧
      (signer 6#8).flags.getLsbD 0 = false ∧ (signer 1#8).kind ≠ .secret ∧
      alone (loads up (signer 1#8)) .S 0x45#8 (0#8 :: 0#8 :: zeros32) = true ∧
      (ctxOf linkKey .S 1).kind = .linkKey ∧ (ctxOf linkKey .S 1).flags.getLsbD 1 = true ∧
      (ctxOf secret .A 1).kind = .secret ∧ (ctxOf secret .A 1).flags.getLsbD 2 = true ∧
      alone (loads up (ctxOf secret .A 1)) .A 0x47#8 [0#8, 0#8] = true := by decide +kernel

/-- The body of EXTEND with an empty label. -/
def extendBody (lane : Byte) : Bytes := [lane] ++ zeros32 ++ [0#8]

/-- The log holds a count of entries. -/
def logged (s : State) (n : Nat) : State :=
  { s with meas := { s.meas with
      log := List.replicate n { lane := 0, source := .supervisor, label := [], digest := zeros32 } } }

theorem witness_ExtendAndQuoteAtTheirGrant :
    (∀ n ∈ [0#8, 3#8, 4#8, 7#8], alone up .S 0x50#8 (extendBody n) = true ∧ alone up .A 0x50#8 (extendBody n) = true) ∧
      up.meas.bootOpen = false ∧ early.meas.bootOpen = true ∧ alone (logged early 30) .S 0x50#8 (extendBody 3#8) = true ∧
      30 ≤ (logged early 30).meas.log.length ∧ (logged early 29).meas.log.length < 30 ∧
      48 ≤ (logged up 48).meas.log.length ∧ (logged up 47).meas.log.length < 48 ∧
      alone up .A 0x53#8 (8#8 :: List.replicate 8 1#8 ++ [0#8]) = true ∧
      alone up .A 0x53#8 (32#8 :: List.replicate 32 1#8 ++ [0xFF#8]) = true ∧ up.ota.lifecycle ≠ .sealed ∧
      (inLife .sealed true true 7#5).ota.lifecycle = .sealed ∧
      ({ up.ota with identity := some (List.replicate 64 1#8) } : Ota).identity = some (List.replicate 64 1#8) := by
  decide +kernel

theorem witness_ExtensionIsCompletedAtOnce :
    (runs up .A (.extend 7 zeros32 zeros32 [] .application)).engine.running =
        some { who := .A, job := .extend 7 zeros32 zeros32 [] .application, dropped := false } ∧
      (runs up .A (.extend 4 zeros32 zeros32 [] .application) true).engine.running =
        some { who := .A, job := .extend 4 zeros32 zeros32 [] .application, dropped := true } ∧
      (runs early .S (.extend 0 zeros32 zeros32 [] .recovery)).engine.running =
        some { who := .S, job := .extend 0 zeros32 zeros32 [] .recovery, dropped := false } ∧
      (∀ m b, early.boot.stage ≠ .releaseClosing m b) ∧
      ({ early with boot := { early.boot with stage := .releaseClosing .normal none } } : State).boot.stage =
        .releaseClosing .normal none := by
  exact ⟨rfl, rfl, rfl, nofun, rfl⟩

theorem witness_KeyJobsHandBackTheirResults :
    (runs up .S (.sign zeros32 zeros32)).engine.running =
        some { who := .S, job := .sign zeros32 zeros32, dropped := false } ∧
      ((up.setWork .S .use).chan .S).work = .use ∧ ((up.setWork .A (.quoteSign [])).chan .A).work = .quoteSign [] ∧
      (runs up .A (.derive [] []) true).engine.running = some { who := .A, job := .derive [] [], dropped := true } ∧
      (runs up .S (.keygen .linkKey)).engine.running = some { who := .S, job := .keygen .linkKey, dropped := false } ∧
      (runs up .S (.keygen .signingKey)).engine.running =
        some { who := .S, job := .keygen .signingKey, dropped := false } ∧
      ((up.setWork .S (.generateKeygen 1 linkKey none)).chan .S).work = .generateKeygen 1 linkKey none ∧
      zeros32.length = 32 ∧ 1 ≤ beNat (be 32 1) ∧ beNat (be 32 (order256 - 1)) < order256 ∧ (be 32 1).length = 32 ∧
      (runs up .S (.keygen .deviceSeed)).engine.running =
        some { who := .S, job := .keygen .deviceSeed, dropped := false } ∧
      (runs up .S (.keygen (.attestation zeros32))).engine.running =
        some { who := .S, job := .keygen (.attestation zeros32), dropped := false } ∧
      (∀ st ∈ [Status.ok, .otpFault], (up.setWork .S (.keysAttest st)).chS.work = .keysAttest st) := by decide +kernel

/-- A trust anchor in slot 0's place of a manifest without bytes has slot 0; slot 9 is named by this manifest. -/
def manifest9 : Bytes := List.replicate 8 0#8 ++ [9#8, 1#8] ++ List.replicate 106 0#8

def anchor : Rec :=
  { kind := .trustAnchor, domain := some .update, flags := 8#8, needsOwner := false, mask := 0#8, composite := zeros32,
    label := [], payload := List.replicate 64 3#8 }

/-- The checker works on a manifest. -/
def checks (s : State) (m : Bytes) (rem : Nat) : State :=
  { s with checker := { s.checker with work := .boot, manifest := m, descRem := rem } }

theorem witness_CheckerJobsAdvanceTheCheck :
    (runs (checks up manifest9 0) .F (.finishDigest .manifest DigestState.fresh [])).engine.running =
        some { who := .F, job := .finishDigest .manifest DigestState.fresh [], dropped := false } ∧
      (holds up 9 anchor).store.keptRec (byteAt manifest9 8).toNat = some anchor ∧ anchor.payload.length = 64 ∧
      anchor.flags.getLsbD 3 = true ∧ (holds up 9 linkKey).store.keptRec (byteAt manifest9 8).toNat = some linkKey ∧
      linkKey.kind ≠ .trustAnchor ∧ up.store.keptRec (byteAt manifest9 8).toNat = none ∧
      (runs up .F (.finishDigest .anchor DigestState.fresh [])).engine.running =
        some { who := .F, job := .finishDigest .anchor DigestState.fresh [], dropped := false } ∧
      (∀ r ∈ up.ota.roots, r.present = true → r.digest ≠ zeros32) ∧
      (runs up .F (.verifySig [] [] [])).engine.running =
        some { who := .F, job := .verifySig [] [] [], dropped := false } ∧ verifySignature [] [] [] = false ∧
      (DigestState.fresh.feed []).finish ≠ (manifestSegment manifest9 0).digest ∧
      up.ota.belowFloor (manifestEpochs manifest9) = false ∧
      ({ up.ota with loader := 1 } : Ota).belowFloor (manifestEpochs manifest9) = true ∧
      (checks up manifest9 1).checker.descRem ≤ [0#8].length ∧ [0#8].length < (checks up manifest9 2).checker.descRem := by
  decide +kernel

/-- A manifest of a count of segments whose digests are those of no bytes. -/
def manifestOk (n : Nat) : Bytes :=
  List.replicate 8 0#8 ++ [9#8, byte n] ++
    (List.replicate n (List.replicate 10 0#8 ++ (DigestState.fresh.feed []).finish)).flatten ++ List.replicate 64 0#8

/-- Bank 0 has passed and its factory advances run. -/
def floors (outs : List AdvOut) : State :=
  { early with boot := { early.boot with
      stage := .floors .b0, factory := outs, bootedPass := some { epochs := { loader := 0, system := 0, radio := 0 }, digest := zeros32 } } }

/-- The boot record after a factory pass of bank 0. -/
def passedRec : BootRec := early.boot.record.apply (.passed .b0 true { loader := 0, system := 0, radio := 0 } zeros32)

theorem witness_CheckerJobsAdvanceTheCheck_pass :
    (runs (checks early (manifestOk 2) 0) .F (.finishDigest .segment DigestState.fresh [])).engine.running =
        some { who := .F, job := .finishDigest .segment DigestState.fresh [], dropped := false } ∧
      (DigestState.fresh.feed []).finish = (manifestSegment (manifestOk 2) 0).digest ∧ 0 + 1 < manifestCount (manifestOk 2) ∧
      manifestCount (manifestOk 1) ≤ 0 + 1 ∧ (checks early (manifestOk 1) 0).checker.work = .boot ∧
      (checks early (manifestOk 1) 0).checker.extended = 0 ∧ (admits .hashing none).checker.work = .admission ∧
      ({ early.checker with manDigest := some zeros32 } : Checker).manDigest = some zeros32 ∧
      passedRec.apply (.passed .b0 true { loader := 0, system := 0, radio := 0 } zeros32) = passedRec ∧
      early.boot.record.apply (.passed .b0 true { loader := 0, system := 0, radio := 0 } zeros32) ≠ early.boot.record ∧
      (floors []).boot.stage = .floors .b0 ∧ (floors []).boot.bootedPass.isSome = true ∧ (floors []).boot.factory.length = 0 ∧
      (floors [{ status := .ok, value := 0 }]).boot.factory.length = 1 ∧
      (floors (List.replicate 2 { status := .ok, value := 0 })).boot.factory.length = 2 := by decide +kernel

theorem witness_CheckerJobsAdvanceTheCheck_dropped :
    (∀ j ∈ [Job.hashChunk DigestState.fresh [], .finishDigest .segment DigestState.fresh [], .verifySig [] [] [], .stretch [] [],
        .random 16, .keygen .signingKey, .keygen .linkKey],
      (runs up .F j true).engine.running = some { who := .F, job := j, dropped := true }) ∧
      (be 32 1).length = 32 ∧ 1 ≤ beNat (be 32 1) ∧ beNat (be 32 (order256 - 1)) < order256 := by decide +kernel

/-- A present root that vouches for a digest. -/
def rooted (d : Bytes) : State :=
  { up with ota := { up.ota with roots := [{ present := true, digest := d }] } }

theorem witness_DigestsAnswerTheirRequests :
    (runs up .S (.finishDigest .root DigestState.fresh [])).engine.running =
        some { who := .S, job := .finishDigest .root DigestState.fresh [], dropped := false } ∧
      (rooted ((DigestState.fresh.feed []).finish)).ota.roots = [{ present := true, digest := (DigestState.fresh.feed []).finish }] ∧
      (∀ r ∈ (rooted zeros32).ota.roots, r.present = true ∧ r.digest ≠ (DigestState.fresh.feed []).finish) ∧
      (inLife .blank false false 0#5).ota.roots =
        { present := false, digest := List.replicate 32 0xFF#8 } :: up.ota.roots.tail ∧
      ((DigestState.fresh.feed []).finish).length = 32 ∧
      (DigestState.fresh.feed []).finish ≠ linkKey.composite ∧
      ({ linkKey with composite := (DigestState.fresh.feed []).finish } : Rec).composite = (DigestState.fresh.feed []).finish ∧
      up.store.gen 1 ≠ 5#32 ∧ up.store.gen 1 = 0#32 ∧ up.granted .S secret.domain = false ∧
      up.granted .S linkKey.domain = true ∧ up.owner.grant = none ∧ owned.owner.grant.isSome = true := by decide +kernel

/-- A root table: a present root, an empty entry that cannot take the digest, and two more entries. -/
def rootTable (last : RootRam) : List RootRam :=
  [{ present := true, digest := zeros32 }, { present := false, digest := zeros32 }, { present := false, digest := zeros32 }, last]

theorem witness_DigestsAnswerTheirRequests_choice :
    let d := (DigestState.fresh.feed []).finish
    (∀ r ∈ rootTable { present := false, digest := d }, r.present = true → r.digest ≠ d) ∧
      (rootTable { present := false, digest := d })[3]? = some { present := false, digest := d } ∧
      List.zipWith (· ||| ·) d d = d ∧
      List.zipWith (· ||| ·) (List.replicate 32 0xFF#8) d = List.replicate 32 0xFF#8 ∧
      List.zipWith (· ||| ·) zeros32 d ≠ zeros32 ∧ zeros32.length = 32 ∧ d.length = 32 ∧
      (∀ r ∈ rootTable { present := true, digest := zeros32 }, r.digest ≠ d) := by decide +kernel

/-- The digest of a quote's statement runs in a part with an attestation key. -/
def quoting (dropped : Bool) : State :=
  let s := runs up .A (.finishDigest (.quote [1#8]) DigestState.fresh [1#8]) dropped
  { s with engine := { s.engine with attest := some { scalar := be 32 2, pub := [] } } }

theorem witness_DigestsAnswerTheirRequests_quote :
    (∀ b ∈ [false, true], (quoting b).engine.running =
        some { who := .A, job := .finishDigest (.quote [1#8]) DigestState.fresh [1#8], dropped := b }) ∧
      (quoting false).engineFreed.quiet = true ∧ (quoting false).engineFreed.engine.free = true ∧
      (quoting false).engine.attest = some { scalar := be 32 2, pub := [] } := by decide +kernel

/-- A known signature over SHA-256 of "sample" on P-256 (private scalar c9afa9d8...). -/
def goodKey : Bytes :=
  be 32 0x60fed4ba255a9d31c961eb74c6356d68c049b8923b61fa6ce669622e60f29fb6 ++
    be 32 0x7903fe1008b8bc99a41ae9e95628bc64f2f1b20c2d7e9f5177a3c294d4462299

def goodSig : Bytes :=
  be 32 0xefd48b2aacb6a8fd1140dd9cd45e81d69d2c877b56aaf991c34d0ea84eaf3716 ++
    be 32 0xf7cb1c942d657c41d436c7a1b6e29f65f3e900dbb9aff4064dc4ab2f843acda8

theorem test_signature_verifies : verifySignature goodKey (digestOf (ascii "sample")) goodSig = true := by decide +kernel

/-! ### Premises are met: boot controller and image checker -/

/-- The checker has a flash read in flight. -/
def reads (s : State) (b : Bank) (r : FlashRead) (dropped : Bool) : State :=
  { s with checker := { s.checker with work := .boot, bank := b, flash := some { read := r, dropped := dropped } } }

/-- A manifest of one DATA segment in lane 3. -/
def manifest1 (magic : Bytes) (lane : Byte) (len : Bytes) : Bytes :=
  magic ++ [1#8, 0#8, 0#8, 0#8, 9#8, 1#8] ++ [4#8, lane, 0#8, 0#8, 0#8, 0#8] ++ len ++ List.replicate 96 0#8

theorem witness_FlashReadsAdvanceTheCheck :
    (reads up .b1 .id false).checker.flash = some { read := .id, dropped := false } ∧ (reads up .b1 .id false).checker.bank = .b1 ∧
      ¬ ((1#8 = 0#8 ∧ 0#8 = 0#8 ∧ 0#8 = 0#8) ∨ (1#8 = 0xFF#8 ∧ 0#8 = 0xFF#8 ∧ 0#8 = 0xFF#8)) ∧
      up.boot.phaseCopy.base0 + up.boot.phaseCopy.size ≤ up.boot.phaseCopy.base1 ∧
      ({ base0 := 0, base1 := 0x10000, size := 0x10001 } : PhaseCopy).base1 < 0 + 0x10001 ∧
      (manifest1 (ascii "ZMHK") 3#8 [0#8, 0x80#8, 0#8, 0#8]).length = 74 + 42 * 1 ∧
      (byteAt (manifest1 (ascii "ZMHK") 3#8 [0#8, 0x80#8, 0#8, 0#8]) 9).toNat = 1 ∧
      goodManifest 0 8388608 (manifest1 (ascii "ZMHK") 3#8 [0#8, 0x80#8, 0#8, 0#8]) = true ∧
      goodManifest 0 8388608 (manifest1 (ascii "ZMHK") 4#8 [0#8, 0x80#8, 0#8, 0#8]) = false ∧
      goodManifest 0 8388608 (manifest1 (ascii "ZMHK") 3#8 [0#8, 0x80#8, 0#8, 1#8]) = false ∧
      goodManifest 0 8388608 (manifest1 (ascii "ZMHJ") 3#8 [0#8, 0x80#8, 0#8, 0#8]) = false ∧
      (reads up .b0 .manifest false).checker.flash = some { read := .manifest, dropped := false } ∧
      (reads up .b0 (.chunk 1) false).checker.flash = some { read := .chunk [0#8].length, dropped := false } ∧
      (reads up .b0 .manifest true).checker.flash = some { read := .manifest, dropped := true } := by decide +kernel

theorem witness_FlashReads_dropped : ∀ prev, up.chA.work ≠ .abortWait prev := nofun

theorem witness_FlashReads_abort :
    (∀ r ∈ [FlashRead.id, .manifest, .chunk 1, .chunk 4096],
      (reads up .b0 r true).checker.flash = some { read := r, dropped := true }) ∧
      (up.setWork .A (.abortWait .hashing)).chA.work = .abortWait .hashing := by decide

/-- A boot record with bank states and trial count. -/
def recorded (s : State) (p q : BankState) (trials : Nat) : State :=
  { s with boot := { s.boot with record :=
      { preferred := .b0, bank0 := { s.boot.record.bank0 with state := p, trials := trials },
        bank1 := { s.boot.record.bank1 with state := q } } } }

theorem witness_FailedChecksAndRecordChanges :
    (reads up .b0 .id false).checker.work = .boot ∧ ((recorded up .trial .unknown 3).boot.record.bank .b0).state = .trial ∧
      ((recorded up .admitted .unknown 0).boot.record.bank .b0).state = .admitted ∧
      (up.boot.record.bank .b0).state = .unknown ∧ (up.boot.record.bank .b1).state = .unknown ∧
      ({ up.boot with stage := .checking .b0 true } : Boot).stage = .checking .b0 true ∧
      ({ up.checker with work := .admission } : Checker).work = .admission := by decide

theorem witness_RecoveryAndRestart :
    alone up .S 0x61#8 [] = true ∧ up.boot.state = .released ∧ alone early .S 0x61#8 [] = true ∧ early.boot.state = .waiting ∧
      early.ota.lifecycle ≠ .failed ∧ early.engine.free = true ∧ alone early .S 0x62#8 [] = true ∧
      early.boot.state ≠ .released ∧ alone up .S 0x62#8 [] = true ∧ alone up .A 0x62#8 [] = true := by decide +kernel

/-- A confirmation stands before an outcome, with the ones it has. -/
def confirming (outs : List AdvOut) : State :=
  { up with boot := { up.boot with
      confirm := some { bank := .b0, epochs := { loader := 1, system := 1, radio := 1 }, outs := outs, live := true } } }

theorem witness_RecoveryAndRestart_ends :
    (runs up .A (.random 16)).engine.running = some { who := .A, job := .random 16, dropped := false } ∧ up.engine.running = none ∧
      (admits .committing none).checker.adm = .committing ∧ (admits .passed none).checker.adm = .passed ∧
      up.boot.confirm = none ∧ (confirming []).boot.confirm.isSome = true ∧
      (∀ n cand before, up.chA.work ≠ .verifyPrecharge n cand before) ∧
      (up.setWork .A (.verifyPrecharge 1 [5#8] none)).chA.work = .verifyPrecharge 1 [5#8] none ∧
      (heldOff up 1 3 0 0).owner.entry 1 ≠ none ∧ up.owner.entry 1 = none ∧ up.store.taken = none ∧
      (jobOf 1 (verifier 3) .precharge (some .A)).filer = .precharge ∧
      (loads up (ctxOf linkKey .S 1)).ctx.entries[0]? = some { epoch := 0#8, ctx := some (ctxOf linkKey .S 1) } := by
  refine ⟨rfl, rfl, rfl, rfl, rfl, rfl, nofun, rfl, ?_⟩
  decide +kernel

/-- A boot record change is outstanding; its job is filed when its record is built. -/
def changing (s : State) (c : Change) (live : Bool) (built : Option BootRec) : State :=
  { s with boot := { s.boot with active := some { asked := { change := c, live := live }, built := built } } }

theorem witness_RecoveryAndRestart_change :
    (changing up (.select .b1) true none).boot.active = some { asked := { change := .select .b1, live := true }, built := none } ∧
      (Change.select .b1).chan = some .A ∧ (Change.confirmReject .b1).chan ≠ some .A ∧ up.store.taken = none ∧
      (∀ x, up.store.taken = some x → x.job.filer ≠ .boot) ∧ up.boot.active = none ∧
      (stores up (jobOf 255 linkKey .boot (some .A)) 0 (.void 0)).store.taken.any (fun x => x.job.filer == .boot) = true ∧
      (line up (.write .A 3)).link.line = .write .A 3 ∧ (line up (.readReply .A 3)).link.line = .readReply .A 3 := by
  refine ⟨rfl, rfl, nofun, rfl, ?_, rfl, by decide +kernel, rfl, rfl⟩
  intro x h
  rw [show up.store.taken = none from rfl] at h
  cases h

theorem witness_SelectAndAdmitAskForTheirChange :
    alone up .A 0x63#8 [0#8] = true ∧ alone up .A 0x63#8 [1#8] = true ∧ up.boot.mode = .normal ∧ up.boot.booted = some .b0 ∧
      up.boot.booted ≠ some .b1 ∧ (up.boot.record.bank .b1).state ≠ .admitted ∧
      alone (recorded up .admitted .admitted 0) .A 0x63#8 [1#8] = true ∧
      ((recorded up .admitted .admitted 0).boot.record.bank .b1).state = .admitted ∧
      up.ota.loader ≤ 0 ∧ ({ up.ota with system := 1 } : Ota).system > 0 ∧
      (recorded up .admitted .admitted 0).boot.record.preferred ≠ .b1 ∧ up.boot.record.preferred = .b0 ∧
      up.boot.active = none ∧ roomy up = true ∧ up.store.gen 255 ≠ 0xFFFFFFFF#32 ∧
      alone up .A 0x70#8 [1#8] = true ∧ alone up .A 0x70#8 [0#8] = true ∧ early.boot.state ≠ .released ∧
      alone early .A 0x70#8 [0#8] = true ∧ up.boot.state = .released ∧ up.checker.adm = .idle ∧
      ({ up.checker with adm := .committing } : Checker).adm = .committing := by decide +kernel

theorem witness_SelectAndAdmit_files :
    ({ up.boot with changes := [{ change := .select .b1, live := true }] } : Boot).changes =
        [{ change := .select .b1, live := true }] ∧ up.boot.active = none ∧
      ({ up.store with waiters := [.boot] } : Store).waiters = [.boot] ∧ up.store.fifo.length < 2 ∧
      ({ up.store with fifo := [jobOf 1 linkKey .writeSlot (some .S)] } : Store).fifo.length < 2 ∧
      (changing up (.commitAdm .b1 { loader := 0, system := 0, radio := 0 } zeros32) true none).boot.active.isSome = true ∧
      up.ota.loader ≤ 0 ∧ up.ota.system ≤ 0 ∧ up.ota.radio ≤ 0 ∧ 0 < ({ up.ota with radio := 1 } : Ota).radio := by decide

theorem witness_SelectAndAdmit_ends :
    (jobOf 255 linkKey .boot (some .A)).filer = .boot ∧ JobEnd.commit 1#32 = .commit 1#32 ∧ Status.storeFault ≠ .ok ∧
      (∀ c ∈ [Change.select .b1, .claiming .b1, .commitAdm .b1 { loader := 0, system := 0, radio := 0 } zeros32,
          .passed .b0 true { loader := 0, system := 0, radio := 0 } zeros32, .trialInc .b0, .reject .b1, .trialsOut .b0],
        ∀ live ∈ [true, false], (changing up c live (some up.boot.record)).boot.active =
          some { asked := { change := c, live := live }, built := some up.boot.record }) ∧ Bank.b0 ≠ .b1 ∧
      up.boot.assumed = none ∧ up.boot.tried1 = false ∧ ({ up.boot with tried1 := true } : Boot).tried1 = true ∧
      ((recorded up .trial .admitted 3).boot.record.bank .b1).state = .admitted ∧
      ((recorded up .trial .unknown 3).boot.record.bank .b1).state = .unknown ∧
      ((recorded up .trial .trial 3).boot.record.bank .b1).state = .trial ∧
      ((recorded up .trial .trial 3).boot.record.bank .b1).trials ≤ 2 ∧ (recorded up .trial .trial 3).boot.record.preferred = .b0 := by
  decide

/-- A check waits for its first flash read. -/
def awaiting (w : CheckWork) (f : Option FlashBusy) : State :=
  { up with checker := { up.checker with work := w, startWait := true, claimed := true, flash := f } }

theorem witness_SelectAndAdmit_reads :
    (awaiting .boot none).checker.startWait = true ∧ (awaiting .admission none).checker.work = .admission ∧
      (awaiting .admission none).checker.claimed = true ∧ (awaiting .admission none).boot.changes = [] ∧
      (awaiting .boot none).store.waiters = [] ∧ (awaiting .boot none).store.fifo = [] ∧ (awaiting .boot none).store.taken = none ∧
      (awaiting .boot none).store.marksHeld = [] ∧ (awaiting .boot none).ota.queue = [] ∧
      (awaiting .boot (some { read := .chunk 1, dropped := true })).checker.flash ≠ none ∧
      (awaiting .boot none).engine.claimF = none ∧ (awaiting .boot none).engine.running = none ∧
      (runs (awaiting .boot none) .F (.hashChunk DigestState.fresh []) true).engine.running.any (fun r => r.who == .F) = true := by
  decide

/-- The booted bank is a TRIAL whose pass is known. -/
def tried : State :=
  let s := recorded up .trial .unknown 1
  { s with boot := { s.boot with
      bootedPass := some { epochs := { loader := 1, system := 1, radio := 1 }, digest := zeros32 } } }

theorem witness_AbortAndConfirm :
    alone up .A 0x72#8 [] = true ∧ up.checker.adm = .idle ∧ alone (admits .hashing none) .A 0x72#8 [] = true ∧
      (admits .hashing none).checker.adm = .hashing ∧ (admits .hashing none).checker.flash = none ∧
      alone (admits .reading (some { read := .id, dropped := false })) .A 0x72#8 [] = true ∧
      (admits .reading (some { read := .id, dropped := false })).checker.flash = some { read := .id, dropped := false } ∧
      alone early .A 0x73#8 [] = true ∧ early.boot.state ≠ .released ∧ alone up .A 0x73#8 [] = true ∧
      up.boot.state = .released ∧ up.boot.mode = .normal ∧ up.boot.booted = some .b0 ∧
      (up.boot.record.bank .b0).state = .unknown ∧ alone (recorded up .admitted .unknown 0) .A 0x73#8 [] = true ∧
      alone tried .A 0x73#8 [] = true ∧ (tried.boot.record.bank .b0).state = .trial ∧
      tried.boot.bootedPass = some { epochs := { loader := 1, system := 1, radio := 1 }, digest := zeros32 } ∧
      tried.boot.active = none ∧ roomy tried = true ∧ tried.store.gen 255 ≠ 0xFFFFFFFF#32 := by decide +kernel

theorem witness_AbortAndConfirm_steps :
    (confirming []).boot.confirm = some { bank := .b0, epochs := { loader := 1, system := 1, radio := 1 }, outs := [], live := true } ∧
      (confirming [{ status := .ok, value := 1 }]).boot.confirm.any (fun k => k.outs.length == 1) = true ∧
      (confirming (List.replicate 2 { status := .ok, value := 1 })).boot.confirm.any (fun k => k.outs.length == 2) = true ∧
      Status.storeFault ≠ .ok ∧ ((recorded up .admitted .admitted 0).boot.record.bank .b1).state = .admitted ∧
      ((recorded up .admitted .admitted 0).boot.record.bank .b1).epochs.loader < 1 ∧
      ((recorded up .admitted .unknown 0).boot.record.bank .b1).state = .unknown ∧
      up.ota.radio ≤ ((recorded up .admitted .admitted 0).boot.record.bank .b1).epochs.radio := by decide

/-- A boot phase about to begin. -/
def starting (s : State) : State := { s with boot := { s.boot with stage := .phaseWait, state := .verifying } }

theorem witness_BootPhaseBeginsWithBankChoice :
    (starting up).boot.stage = .phaseWait ∧ (starting up).boot.confirm = none ∧ (starting up).store.taken = none ∧
      (starting up).ota.rootCount = 0 ∧ (rooted zeros32).ota.rootCount ≠ 0 ∧ (rooted zeros32).ota.lifecycle ≠ .failed ∧
      up.boot.record.preferred = .b0 ∧ Bank.b0 ≠ .b1 ∧ (up.boot.record.bank .b0).state = .unknown ∧
      ((recorded up .trial .unknown 2).boot.record.bank .b0).trials ≤ 2 ∧
      3 ≤ ((recorded up .trial .unknown 3).boot.record.bank .b0).trials ∧
      ((recorded up .admitted .unknown 0).boot.record.bank .b0).state = .admitted ∧
      ((recorded up .rejected .admitted 0).boot.record.bank .b1).state = .admitted ∧
      ((recorded up .rejected .admitted 0).boot.record.bank .b0).state = .rejected ∧
      ((recorded up .rejected .unknown 0).boot.record.bank .b1).state ≠ .admitted := by decide

/-- A release stands ready, or waits for the boot lanes. -/
def releasing (st : Stage) (s : State) : State :=
  { s with checker := { s.checker with fown := false }, boot := { s.boot with stage := st } }

theorem witness_ReleaseInItsOrder :
    (releasing (.releaseReady .normal (some .b0)) early).boot.stage = .releaseReady .normal (some .b0) ∧
      early.chS.work ≠ .resetEpoch ∧ (∀ slot done left out, early.chS.work ≠ .resetWalk slot done left out) ∧
      early.power = .running ∧ early.chA.state = .closed ∧ early.engine.running = none ∧ early.chS.work ≠ .recoveryRelease ∧
      (early.setWork .S .recoveryRelease).chS.work = .recoveryRelease ∧
      (releasing (.releaseClosing .normal (some .b0)) early).boot.stage = .releaseClosing .normal (some .b0) ∧
      (releasing (.releaseClosing .normal (some .b0)) early).checker.fown = false ∧
      (runs early .S (.extend 3 zeros32 zeros32 [] .supervisor)).engine.running =
        some { who := .S, job := .extend 3 zeros32 zeros32 [] .supervisor, dropped := false } :=
  ⟨rfl, nofun, nofun, rfl, rfl, rfl, nofun, rfl, rfl, rfl, rfl⟩

theorem witness_ReleaseInItsOrder_waits :
    (early.setWork .S .resetEpoch).chS.work = .resetEpoch ∧
      (early.setWork .S (.resetWalk 254 1 0 .ok)).chS.work = .resetWalk 254 1 0 .ok ∧
      (releasing (.releaseClosing .normal (some .b1)) (early.setWork .S .resetEpoch)).boot.stage =
        .releaseClosing .normal (some .b1) ∧
      (releasing (.releaseClosing .recovery none) (early.setWork .S .recoveryRelease)).chS.work = .recoveryRelease :=
  ⟨rfl, rfl, rfl, rfl⟩

/-- A cut in a page program or in the sixteenth page of an erase. -/
def cutPage (pages : Nat) : Cut := { page := List.replicate 256 0xF0#8, gen := 0#32, pages := pages, cells := 1#8 }

theorem witness_ResetsKeepTheArraysAlone :
    up.power ≠ .off ∧ up.ota.current = none ∧ up.store.op = none ∧ State.reset.power = .inReset ∧
      (burns up (.retire 39) 0).ota.current = some { op := .retire 39, pos := 0 } ∧
      (burns up (.advance .ownerEpoch 64 .ownerReset) 63).ota.current.isSome = true ∧ (burns up .seal 2).ota.current.isSome = true ∧
      (OtaOp.identity (List.replicate 64 5#8)).byteAt 256 = none ∧
      (burns up (.identity (List.replicate 64 5#8)) 255).ota.current.isSome = true ∧ zeros32.length = 32 ∧
      (∀ p ∈ [0, 31, 32, 63, 64], (burns up (.keys zeros32) p).ota.current = some { op := .keys zeros32, pos := p }) ∧
      (∀ p ∈ [0, 31, 32], (burns up (.root 3 zeros32) p).ota.current = some { op := .root 3 zeros32, pos := p }) ∧
      up.ota.cells.roots[3]?.isSome = true ∧ (programming 0).store.op = some (.program 0 (recordPage 1 1#32 linkKey)) ∧
      (recordPage 1 1#32 linkKey).length = 256 ∧ (cutPage 16).page.length = 256 ∧ 16 ≤ (cutPage 16).pages ∧ (cutPage 15).pages < 16 ∧
      (stores up (jobOf 1 linkKey .writeSlot (some .S)) 2 (.void 639)).store.op = some (.void 639) ∧
      (compacting [] (some (.erase 1))).store.op = some (.erase 1) := by decide +kernel

/-- What the scan finds when slot `slot` holds a record and block 0 alone is in use. -/
def scanned (slot : Nat) (r : Rec) : Scan := scanStore (holds up slot r).store.mem 1#40

theorem witness_LoadAndLifecycle :
    ({ State.reset with power := .loading } : State).power = .loading ∧
      (scanStore [] (BitVec.allOnes 40)).store.liveRec 0 = none ∧ (scanStore [] (BitVec.allOnes 40)).store.liveRec 255 = none := by
  decide +kernel

theorem witness_LoadAndLifecycle_records :
    (scanned 0 (plainRec .settings (settingsPayload Settings.defaults))).store.liveRec 0 =
        some (plainRec .settings (settingsPayload Settings.defaults)) ∧
      (settingsPayload Settings.defaults).length = 28 ∧ (scanned 0 (plainRec .settings [])).store.liveRec 0 =
        some (plainRec .settings []) ∧
      (scanned 255 (plainRec .bootRecord (bootRecPayload BootRec.empty))).store.liveRec 255 =
        some (plainRec .bootRecord (bootRecPayload BootRec.empty)) ∧
      (scanned 254 (verifier 3)).store.liveRec 254 = some (verifier 3) ∧ goodVerifier (verifier 3) = true ∧
      (scanned 1 linkKey).store.liveRec 1 = some linkKey ∧ goodVerifier linkKey = false := by decide +kernel

/-! ### Premises are met: what every step keeps -/

/-- The idle check is due in a sound state. -/
def ticking : State := { up with pending := [.uptimeTick] }

theorem witness_MemoryKeepsItsForm : (∃ t, step ticking = .next t) ∧ ticking.memOk = true := ⟨⟨_, rfl⟩, by decide⟩

theorem witness_OneTimeCellsAreOnlyProgrammed : ∃ t, step ticking = .next t := ⟨_, rfl⟩

theorem witness_ContextTableKeepsItsForm : (∃ t, step ticking = .next t) ∧ ticking.ctx.sound = true := ⟨⟨_, rfl⟩, by decide⟩

theorem witness_OneWayState :
    (∃ t, exec .uptimeTick up = .next t) ∧ Instr.uptimeTick.resets = false ∧ (∀ ch, Instr.uptimeTick ≠ .restartPlatform ch) ∧
      ({ up with guard := { up.guard with frozen := true } } : State).guard.frozen = true ∧ up.store.gen 1 ≠ 0xFFFFFFFF#32 :=
  ⟨⟨_, rfl⟩, rfl, nofun, rfl, by decide⟩

theorem witness_OnlyAReleaseLetsThePlatformGo :
    ∃ t, exec .release (releasing (.releaseReady .normal (some .b0)) early) = .next t ∧
      (releasing (.releaseReady .normal (some .b0)) early).hold = true ∧ t.hold = false := by
  have h : ((releasing (.releaseReady .normal (some .b0)) early).finishRelease .normal (some .b0)).settle.hold = false := by
    decide +kernel
  refine ⟨((releasing (.releaseReady .normal (some .b0)) early).finishRelease .normal (some .b0)).settle, ?_, rfl, h⟩
  rfl

/-- A loaded key whose slot holds its record. -/
def keyed : State := loads (holds up 1 linkKey) (ctxOf linkKey .S 1)

theorem witness_LoadedKeysStayValid : keyed.keysSound ∧ (∃ t, exec .uptimeTick keyed = .next t) ∧
    (∃ t, step { keyed with pending := [.uptimeTick] } = .next t) ∧
    { epoch := 0#8, ctx := some (ctxOf linkKey .S 1) } ∈ keyed.ctx.entries := by
  have h : ∀ e ∈ keyed.ctx.entries, ∀ c ∈ e.ctx,
      c.gen = keyed.store.gen c.slot ∧ keyed.granted c.owner c.domain = true ∧ c.needsOwner = false := by
    decide +kernel
  refine ⟨⟨?_, nofun, fun h => absurd rfl h⟩, ⟨_, rfl⟩, ⟨_, rfl⟩, by decide⟩
  intro e c he hc
  obtain ⟨h1, h2, h3⟩ := h e he c hc
  exact ⟨h1, h2, fun h => by rw [h3] at h; cases h⟩

theorem witness_LanesReplayTheLog : up.lanesReplay ∧ ∃ t, exec .extendJobEnd
    (runs up .A (.extend 4 zeros32 zeros32 [] .application)) = .next t ∧
    (runs up .A (.extend 4 zeros32 zeros32 [] .application)).lanesReplay := by
  have hz : ∀ n, n < 8 → up.meas.lane n = replayed n up.meas.log := by decide
  refine ⟨⟨rfl, hz, ?_⟩, _, rfl, rfl, hz, ?_⟩
  · intro r lane v d l src h; cases h
  · intro r lane v d l src h _ hj _
    cases h; cases hj; rfl

/-! ### Commands at work -/

theorem test_identify_answers : ∃ t, exec (.identify .S) (asks up .S 1#8 []) = .next t ∧ t.chS.state = .replyReady :=
  ⟨_, rfl, rfl⟩

theorem test_holdOff_doubles :
    (List.range 6).map (fun f => holdOff params f) = [0, 0, 2, 4, 8, 16] ∧ holdOff params 19 = 600 ∧
      holdOff { params with B := 255, C := 16777215 } 18 = 16711680 := by decide +kernel

theorem test_decay_keeps_the_rest :
    decayed params 150 { slot := 1, count := 5, holdUntil := 0, lastEvent := 10 } =
      { slot := 1, count := 3, holdUntil := 0, lastEvent := 130 } := by decide

theorem test_idle_grant_ends :
    ∃ t u, exec .uptimeTick (atUptime owned 299) = .next t ∧ exec .ownerGrantIdleExpiry t = .next u ∧ t.owner.idleDue = true ∧
      u.owner.grant = none ∧ u.chA.ev2 = true := ⟨_, _, rfl, rfl, by decide +kernel, by decide +kernel, by decide +kernel⟩

end Sys2Proof.Tests
end

/-! The attention line of a channel (R18): one rule for each of the three kinds of channel state that decide it. -/
namespace Sys2Proof.Machine
namespace State

/-- Setting 6 holds channel S's enables (section 1.8). -/
@[simp] theorem enables_S (s : State) : s.enables .S = s.settings.enablesS := rfl

/-- Setting 5 holds channel A's enables (section 1.8). -/
@[simp] theorem enables_A (s : State) : s.enables .A = s.settings.enablesA := rfl

/-- The channel has a pending event whose enable is set, the first event's enable in the lowest bit (R17, R18). -/
def enabledEvent (s : State) (ch : Chan) : Prop :=
  ∃ i, (s.chan ch).flag i = true ∧ (s.enables ch).testBit i = true

/-- A channel has three flags, so an enabled pending event is one of three. -/
theorem enabledEvent_iff (s : State) (ch : Chan) :
    s.enabledEvent ch ↔
      ((s.chan ch).ev1 = true ∧ (s.enables ch).testBit 0 = true) ∨
      ((s.chan ch).ev2 = true ∧ (s.enables ch).testBit 1 = true) ∨
      ((s.chan ch).ev3 = true ∧ (s.enables ch).testBit 2 = true) := by
  constructor
  · rintro ⟨i, hflag, henable⟩
    match i with
    | 0 => exact .inl ⟨hflag, henable⟩
    | 1 => exact .inr (.inl ⟨hflag, henable⟩)
    | 2 => exact .inr (.inr ⟨hflag, henable⟩)
    | _ + 3 => cases hflag
  · rintro (h | h | h)
    · exact ⟨0, h⟩
    · exact ⟨1, h⟩
    · exact ⟨2, h⟩

theorem attention_of_closed {s : State} {ch : Chan} (hclosed : (s.chan ch).state = .closed) :
    s.attention ch = false := by
  simp [attention, hclosed]

theorem attention_of_replyReady {s : State} {ch : Chan} (hready : (s.chan ch).state = .replyReady) :
    s.attention ch = true := by
  simp [attention, hready]

/-- With no reply held, an open channel's line shows its enabled events alone. -/
theorem attention_iff_of_noReply {s : State} {ch : Chan} (hopen : (s.chan ch).state ≠ .closed)
    (hready : (s.chan ch).state ≠ .replyReady) : s.attention ch = true ↔ s.enabledEvent ch := by
  simp [attention, enabledEvent_iff, hopen, hready, or_assoc]

/-- R18 in whole: open, and a reply held or an enabled event pending. -/
theorem attention_iff (s : State) (ch : Chan) :
    s.attention ch = true ↔
      (s.chan ch).state ≠ .closed ∧ ((s.chan ch).state = .replyReady ∨ s.enabledEvent ch) := by
  by_cases hclosed : (s.chan ch).state = .closed
  · simp [attention_of_closed hclosed, hclosed]
  by_cases hready : (s.chan ch).state = .replyReady
  · simp [attention_of_replyReady hready, hready]
  · simp [attention_iff_of_noReply hclosed hready, hclosed, hready]

end State

/-- Settles O10: R18's rule `State.attention_iff`, with the enabled event spelled out over the three flags. -/
theorem attentionFollowsReplyAndEvents : Obligations.AttentionFollowsReplyAndEvents := by
  intro s ch c en hc hen
  have henables : en = s.enables ch := by
    cases ch with
    | S => simpa using hen
    | A => simpa using hen
  rw [henables, ← hc, State.attention_iff, State.enabledEvent_iff]

end Sys2Proof.Machine

/-! The slot guard (R75 to R77): which slots it opens, what SET GUARD and FREEZE GUARD answer, and the commands that leave it as
it is. -/
namespace Sys2Proof.Machine

/-! ### Which slots a guard opens -/

namespace Guard

theorem allows_iff_of_not_invert {g : Guard} (h : g.invert = false) (n : Nat) :
    g.allows n = true ↔ g.lower ≤ n ∧ n ≤ g.upper := by
  simp [allows, h]

theorem allows_iff_of_invert {g : Guard} (h : g.invert = true) (n : Nat) :
    g.allows n = true ↔ n < g.lower ∨ g.upper < n := by
  simp [allows, h]

/-- The flag that freezes a guard is not judged by it (R77). -/
@[simp] theorem allows_withFrozen (g : Guard) (b : Bool) (n : Nat) :
    ({ g with frozen := b } : Guard).allows n = g.allows n := rfl

/-- Over all user slots, the invert flag alone decides (R76). -/
theorem allows_of_all_slots {g : Guard} {n : Nat} (hlow : g.lower ≤ n) (hup : n ≤ g.upper) : g.allows n = !g.invert := by
  cases hinv : g.invert with
  | false => exact (allows_iff_of_not_invert hinv n).2 ⟨hlow, hup⟩
  | true =>
    have hshut : ¬ g.allows n = true := by
      rw [allows_iff_of_invert hinv]; omega
    simpa using hshut

/-- Nothing lies from 1 to 0, so the guard at power-on opens no slot (R75). -/
theorem powerOn_allows (n : Nat) : powerOn.allows n = false := by
  have hshut : ¬ powerOn.allows n = true := by
    rw [allows_iff_of_not_invert rfl]
    simp only [powerOn]
    omega
  simpa using hshut

end Guard

/-! ### The answers of SET GUARD and FREEZE GUARD -/

/-- A request that stands in the channel is served. -/
theorem serve_of_request {s : State} {ch : Chan} {code : Byte} {body : Bytes} (h : s.request ch code = some body)
    (f : Bytes → State) : s.serve ch code f = .next (f body) := by
  unfold State.serve; rw [h]

theorem guardArgs_iff (l u i : Nat) : guardArgs l u i = true ↔ 1 ≤ l ∧ u ≤ 254 ∧ l ≤ u ∧ i ≤ 1 := by
  simp [guardArgs, and_assoc]

theorem toNat_beq_one (i : Byte) : (i.toNat == 1) = (i == 1#8) := by
  rw [Bool.eq_iff_iff, beq_iff_eq, beq_iff_eq]
  bv_omega

/-- A flag argument that SET GUARD accepts is the byte of the flag it sets (R191). -/
theorem flagByte_beq_one {i : Byte} (h : i.toNat ≤ 1) : flagByte (i == 1#8) = i := by
  have hbyte : i = 0#8 ∨ i = 1#8 := by bv_omega
  obtain rfl | rfl := hbyte <;> rfl

theorem execSetGuard_of_frozen {s : State} {l u i : Byte} (hreq : s.request .S 0x21#8 = some [l, u, i])
    (hfrozen : s.guard.frozen = true) : execSetGuard s = .next (s.reply .S .wrongState []) := by
  unfold execSetGuard
  rw [serve_of_request hreq]
  simp [parseSetGuard, hfrozen, State.refuse]

theorem execSetGuard_of_bad {s : State} {l u i : Byte} (hreq : s.request .S 0x21#8 = some [l, u, i])
    (hfrozen : s.guard.frozen = false) (hbad : guardArgs l.toNat u.toNat i.toNat = false) :
    execSetGuard s = .next (s.reply .S .badArgument []) := by
  unfold execSetGuard
  rw [serve_of_request hreq]
  simp [parseSetGuard, hfrozen, hbad, State.refuse]

/-- The guard takes the three values, and the reply gives them back (R76). -/
theorem execSetGuard_of_good {s : State} {l u i : Byte} (hreq : s.request .S 0x21#8 = some [l, u, i])
    (hfrozen : s.guard.frozen = false) (hgood : guardArgs l.toNat u.toNat i.toNat = true) :
    execSetGuard s =
      .next ({ s with guard := { lower := l.toNat, upper := u.toNat, invert := i == 1#8, frozen := false } }.reply
        .S .ok [l, u, i]) := by
  obtain ⟨-, -, -, hi⟩ := (guardArgs_iff _ _ _).1 hgood
  unfold execSetGuard
  rw [serve_of_request hreq]
  simp [parseSetGuard, hfrozen, hgood, toNat_beq_one, Guard.bytes, byte, flagByte_beq_one hi]

theorem execFreezeGuard_of_frozen {s : State} (hreq : s.request .S 0x22#8 = some []) (hfrozen : s.guard.frozen = true) :
    execFreezeGuard s = .next (s.reply .S .wrongState []) := by
  unfold execFreezeGuard
  rw [serve_of_request hreq]
  simp [State.emptyBody, hfrozen, State.refuse]

theorem execFreezeGuard_of_unfrozen {s : State} (hreq : s.request .S 0x22#8 = some []) (hfrozen : s.guard.frozen = false) :
    execFreezeGuard s =
      .next ({ s with guard := { s.guard with frozen := true } }.reply .S .ok
        [byte s.guard.lower, byte s.guard.upper, flagByte s.guard.invert, 1#8]) := by
  unfold execFreezeGuard
  rw [serve_of_request hreq]
  simp [State.emptyBody, hfrozen, Guard.bytes, flagByte]

/-! ### The commands that leave the guard as it is -/

theorem Result.all_mono {r : Result} {P Q : State → Prop} (h : r.all P) (hpq : ∀ t, P t → Q t) : r.all Q := by
  cases r with
  | next t => exact hpq t h
  | fault _ => exact h
  | refused _ => exact h

/-- The outcome has the guard of `s`. -/
def Result.keepsGuard (r : Result) (s : State) : Prop := r.all fun t => t.guard = s.guard

/-- The guard is one of the fixed fields, and not the one that `x` sets. -/
theorem keepsGuard_of_all {r : Result} {s : State} {x : State → Fixed} {P : State → Prop} (h : r.all fun t => t.fixed = x t ∧ P t)
    (hx : ∀ t, (x t).guard = s.guard) : r.keepsGuard s :=
  Result.all_mono h fun t ht => (congrArg Fixed.guard ht.1).trans (hx t)

theorem Result.fixes.keepsGuard {r : Result} {s : State} (h : r.fixes s) : r.keepsGuard s :=
  Result.all_mono h fun _ ht => congrArg Fixed.guard ht

/-- The guard is no part of the link. -/
theorem keepsGuard_of_offLink {r : Result} {s : State} (h : r.all fun t => t.offLink = s.offLink) : r.keepsGuard s :=
  Result.all_mono h fun _ ht => congrArg Fixed.guard ht

/-- The guard is no part of the store's cells and map. -/
theorem keepsGuard_of_storeStep {r : Result} {s : State} (h : r.all (StoreStep s)) : r.keepsGuard s :=
  Result.all_mono h fun _ ht => congrArg Fixed.guard ht.fixed

/-- The guard is no part of the one-time cells. -/
theorem keepsGuard_of_otaStep {r : Result} {s : State} (h : r.all (OtaStep s)) : r.keepsGuard s :=
  Result.all_mono h fun _ ht => congrArg Fixed.guard ht.fixed

theorem settle_guard (s : State) : s.settle.guard = s.guard := congrArg Fixed.guard (State.settle_fixed s)

/-- A pin reset keeps the guard (R75). -/
theorem execPinReset_keepsGuard (cut : Cut) (s : State) : (execPinReset cut s).keepsGuard s := by
  unfold execPinReset; split <;> rfl

theorem execPinResetRelease_keepsGuard (s : State) : (execPinResetRelease s).keepsGuard s := by
  unfold execPinResetRelease; split <;> rfl

theorem execStartUpLoad_keepsGuard (s : State) : (execStartUpLoad s).keepsGuard s := by
  unfold execStartUpLoad; split
  · exact settle_guard _
  · rfl

theorem finishRelease_settle_guard (s : State) (m : BootMode) (b : Option Bank) :
    (s.finishRelease m b).settle.guard = s.guard :=
  (settle_guard _).trans (congrArg Fixed.guard (State.finishRelease_fixed s m b))

theorem execRelease_keepsGuard (s : State) : (execRelease s).keepsGuard s := by
  unfold execRelease; split
  · split
    · rfl
    · dsimp only
      split
      · rfl
      · exact finishRelease_settle_guard _ _ _
  · rfl

theorem execBootLanesClose_keepsGuard (s : State) : (execBootLanesClose s).keepsGuard s := by
  unfold execBootLanesClose; split
  · split
    · rfl
    · exact finishRelease_settle_guard _ _ _
  · rfl

theorem execRestartPlatform_keepsGuard (ch : Chan) (s : State) : (execRestartPlatform ch s).keepsGuard s :=
  serve_all s _ _ _ rfl fun body _ => by
    have hrestart : s.restart.guard = s.guard := congrArg Fixed.guard (State.restart_fixed s)
    rw [settle_guard]
    cases body with
    | cons b rest => exact State.refuse_guard s ch .badArgument
    | nil =>
      unfold State.emptyBody
      cases ch <;> split <;> simp [hrestart]

/-- The commands that can write the guard: its two requests, and power coming and going (R75 to R77). -/
def writesGuard : Instr → Bool
  | .setGuard | .freezeGuard | .powerOn _ | .powerLoss _ => true
  | _ => false

/-- Every command but those four leaves the guard as it is, one case for each row of the table. -/
theorem exec_keepsGuard (c : Instr) (s : State) (hc : writesGuard c = false) : Result.keepsGuard (exec c s) s := by
  match c, hc with
  | .powerOn _, h | .powerLoss _, h | .setGuard, h | .freezeGuard, h => cases h
  | .pinReset cut, _ => exact execPinReset_keepsGuard cut s
  | .pinResetRelease, _ => exact execPinResetRelease_keepsGuard s
  | .startUpLoad, _ => exact execStartUpLoad_keepsGuard s
  | .addressByte b, _ => exact keepsGuard_of_offLink (execAddressByte_offLink b s)
  | .writeDataByte b, _ => exact keepsGuard_of_offLink (execWriteDataByte_offLink b s)
  | .frameClose, _ => exact keepsGuard_of_offLink (execFrameClose_offLink s)
  | .readFrame n ends, _ => exact keepsGuard_of_offLink (execReadFrame_offLink n ends s)
  | .stuckLineTimerExpiry, _ => exact keepsGuard_of_offLink (execStuckLineTimerExpiry_offLink s)
  | .identify ch, _ => exact (execIdentify_fixes ch s).keepsGuard
  | .readEvents ch, _ => exact (execReadEvents_fixes ch s).keepsGuard
  | .getSetting ch, _ => exact (execGetSetting_fixes ch s).keepsGuard
  | .setSetting, _ => exact (execSetSetting_fixes s).keepsGuard
  | .restrictGrants, _ => exact keepsGuard_of_all (execRestrictGrants_all s) fun _ => rfl
  | .writeIdentity, _ => exact (execWriteIdentity_fixes s).keepsGuard
  | .generateDeviceKeys, _ => exact (execGenerateDeviceKeys_fixes s).keepsGuard
  | .installRoot, _ => exact (execInstallRoot_fixes s).keepsGuard
  | .seal, _ => exact (execSeal_fixes s).keepsGuard
  | .readStoreHealth ch, _ => exact (execReadStoreHealth_fixes ch s).keepsGuard
  | .writeSlot ch, _ => exact (execWriteSlot_fixes ch s).keepsGuard
  | .generateKey ch, _ => exact (execGenerateKey_fixes ch s).keepsGuard
  | .deleteSlot ch, _ => exact (execDeleteSlot_fixes ch s).keepsGuard
  | .readSlotInfo ch, _ => exact (execReadSlotInfo_fixes ch s).keepsGuard
  | .verifyOwner, _ => exact (execVerifyOwner_fixes s).keepsGuard
  | .endOwner, _ => exact (execEndOwner_fixes s).keepsGuard
  | .setVerifier, _ => exact (execSetVerifier_fixes s).keepsGuard
  | .readThrottle ch, _ => exact (execReadThrottle_fixes ch s).keepsGuard
  | .ownerReset rcv, _ => exact Result.all_mono (execOwnerReset_all rcv s) fun _ ht => congrArg Fixed.guard ht
  | .openKey ch, _ => exact (execOpenKey_fixes ch s).keepsGuard
  | .closeKey ch, _ => exact (execCloseKey_fixes ch s).keepsGuard
  | .pinKey ch, _ => exact (execPinKey_fixes ch s).keepsGuard
  | .unpinKey ch, _ => exact (execUnpinKey_fixes ch s).keepsGuard
  | .listContexts ch, _ => exact (execListContexts_fixes ch s).keepsGuard
  | .sign ch, _ => exact (execSign_fixes ch s).keepsGuard
  | .derive ch, _ => exact (execDerive_fixes ch s).keepsGuard
  | .releaseSecret ch, _ => exact (execReleaseSecret_fixes ch s).keepsGuard
  | .extend ch, _ => exact (execExtend_fixes ch s).keepsGuard
  | .readLanes ch, _ => exact (execReadLanes_fixes ch s).keepsGuard
  | .readLog ch, _ => exact (execReadLog_fixes ch s).keepsGuard
  | .quote ch, _ => exact (execQuote_fixes ch s).keepsGuard
  | .readBootState ch, _ => exact (execReadBootState_fixes ch s).keepsGuard
  | .releaseRecovery, _ => exact (execReleaseRecovery_fixes s).keepsGuard
  | .restartPlatform ch, _ => exact execRestartPlatform_keepsGuard ch s
  | .selectBank, _ => exact (execSelectBank_fixes s).keepsGuard
  | .admitBank, _ => exact (execAdmitBank_fixes s).keepsGuard
  | .admissionStatus ch, _ => exact (execAdmissionStatus_fixes ch s).keepsGuard
  | .abortAdmission, _ => exact (execAbortAdmission_fixes s).keepsGuard
  | .confirmBoot, _ => exact (execConfirmBoot_fixes s).keepsGuard
  | .hashChunkEnd, _ => exact (execHashChunkEnd_fixes s).keepsGuard
  | .finishDigestEnd, _ => exact (execFinishDigestEnd_fixes s).keepsGuard
  | .extendJobEnd, _ => exact keepsGuard_of_all (execExtendJobEnd_all s) fun _ => rfl
  | .verifySignatureEnd, _ => exact (execVerifySignatureEnd_fixes s).keepsGuard
  | .signJobEnd, _ => exact (execSignJobEnd_fixes s).keepsGuard
  | .deriveJobEnd, _ => exact (execDeriveJobEnd_fixes s).keepsGuard
  | .stretchEnd, _ => exact (execStretchEnd_fixes s).keepsGuard
  | .keygenEnd healthy draws, _ => exact (execKeygenEnd_fixes healthy draws s).keepsGuard
  | .randomEnd healthy drawn, _ => exact (execRandomEnd_fixes healthy drawn s).keepsGuard
  | .pageProgramDone bad, _ => exact keepsGuard_of_storeStep (execPageProgramDone_step bad s)
  | .pageVoidDone bad, _ => exact keepsGuard_of_storeStep (execPageVoidDone_step bad s)
  | .copyProgramDone bad, _ => exact keepsGuard_of_storeStep (execCopyProgramDone_step bad s)
  | .blockEraseDone left, _ => exact keepsGuard_of_storeStep (execBlockEraseDone_step left s)
  | .recoveryEraseDone left, _ => exact keepsGuard_of_storeStep (execRecoveryEraseDone_step left s)
  | .otaByteProgrammed stuck, _ => exact keepsGuard_of_otaStep (execOtaByteProgrammed_step stuck s)
  | .counterBitProgrammed ok, _ => exact keepsGuard_of_otaStep (execCounterBitProgrammed_step ok s)
  | .lockBitProgrammed ok, _ => exact keepsGuard_of_otaStep (execLockBitProgrammed_step ok s)
  | .retireBitProgrammed ok, _ => exact keepsGuard_of_otaStep (execRetireBitProgrammed_step ok s)
  | .uptimeTick, _ => exact keepsGuard_of_all (execUptimeTick_all s) fun _ => rfl
  | .ownerGrantIdleExpiry, _ => exact (execOwnerGrantIdleExpiry_fixes s).keepsGuard
  | .flashIdReadDone b0 b1 b2, _ => exact (execFlashIdReadDone_fixes b0 b1 b2 s).keepsGuard
  | .manifestReadDone bytes, _ => exact (execManifestReadDone_fixes bytes s).keepsGuard
  | .chunkReadDone bytes, _ => exact (execChunkReadDone_fixes bytes s).keepsGuard
  | .bootPhaseBegin, _ => exact (execBootPhaseBegin_fixes s).keepsGuard
  | .bootLanesClose, _ => exact execBootLanesClose_keepsGuard s
  | .release, _ => exact execRelease_keepsGuard s

/-- R77: while power stays, no command changes a frozen guard. The two guard requests find it frozen; no other command writes
it. -/
theorem frozen_guard_stays {c : Instr} {s t : State} (hstep : exec c s = .next t) (hfrozen : s.guard.frozen = true)
    (hpower : ∀ cut, c ≠ .powerOn cut ∧ c ≠ .powerLoss cut) : t.guard = s.guard := by
  cases hw : writesGuard c with
  | false => exact Result.all_next (exec_keepsGuard c s hw) hstep
  | true =>
    cases c with
    | setGuard => exact (Result.all_next (execSetGuard_all s) hstep).2 hfrozen
    | freezeGuard => exact (Result.all_next (execFreezeGuard_all s) hstep).2 hfrozen
    | powerOn cut => exact absurd rfl (hpower cut).1
    | powerLoss cut => exact absurd rfl (hpower cut).2
    | _ => cases hw

/-- Settles O16: the answers of the two requests, `frozen_guard_stays`, and the slots that a guard opens. -/
theorem guardRequests : Obligations.GuardRequests := by
  refine ⟨fun s => ⟨fun l u i hreq => ⟨?frozen, ?good, ?bad⟩, fun hreq => ⟨?refreeze, ?freeze⟩⟩, ?stays, ?range, ?rule⟩
  case frozen => exact execSetGuard_of_frozen hreq
  case good =>
    intro hfrozen hl hu hlu hi
    exact execSetGuard_of_good hreq hfrozen ((guardArgs_iff _ _ _).2 ⟨hl, hu, hlu, hi⟩)
  case bad =>
    intro hfrozen hbad
    refine execSetGuard_of_bad hreq hfrozen ?_
    rw [Bool.eq_false_iff, Ne, guardArgs_iff]
    bv_omega
  case refreeze => exact execFreezeGuard_of_frozen hreq
  case freeze => exact execFreezeGuard_of_unfrozen hreq
  case stays => exact fun c s t => frozen_guard_stays
  case range =>
    intro g n hn1 hn254
    exact ⟨g.allows_withFrozen true n, Guard.powerOn_allows n, fun hlow hup =>
      Guard.allows_of_all_slots (hlow ▸ hn1) (hup ▸ hn254)⟩
  case rule => exact fun g n => ⟨fun h => Guard.allows_iff_of_not_invert h n, fun h => Guard.allows_iff_of_invert h n⟩

end Sys2Proof.Machine

/-! What a command does to the fixed part of the state, said once: every command answers, and its answer is of one of fourteen
forms. The one-way statements about the arrays, the log, the clock, the grant sets and HOLD_N are read off the forms. -/
namespace Sys2Proof.Machine

/-! ### The forms of a command's effect -/

/-- What a command does to the fixed part of the state, by the kind of the command. -/
inductive Effect (s t : State) : Instr → Prop
  /-- It leaves the fixed part alone. -/
  | still (c : Instr) (fixed : t.fixed = s.fixed) : Effect s t c
  /-- It changes the link alone. -/
  | link (c : Instr) (offLink : t.offLink = s.offLink) : Effect s t c
  /-- It changes the guard alone. -/
  | guard (c : Instr) (fixed : t.fixed = { s.fixed with guard := t.guard }) : Effect s t c
  /-- It narrows channel A's grant set alone (R16). -/
  | narrow (c : Instr) (fixed : t.fixed = { s.fixed with grantsA := t.chA.grants })
      (falls : t.chA.grants &&& ~~~ s.chA.grants = 0#6) : Effect s t c
  /-- It takes the level of the recovery button alone (R117). -/
  | button (c : Instr) (fixed : t.fixed = { s.fixed with rcv := t.rcv }) : Effect s t c
  /-- It ends an operation of the store (R53). -/
  | store (c : Instr) (ends : StoreStep s t) : Effect s t c
  /-- It ends a programming step of the one-time area (R35). -/
  | ota (c : Instr) (ends : OtaStep s t) : Effect s t c
  /-- It extends the log (R138). -/
  | extend (c : Instr) (fixed : t.fixed = { s.fixed with meas := t.meas }) (grows : s.meas.log <+: t.meas.log) : Effect s t c
  /-- It advances the clock alone (R99). -/
  | tick (c : Instr) (fixed : t.fixed = { s.fixed with uptime := t.owner.uptime }) (rises : s.owner.uptime ≤ t.owner.uptime) :
      Effect s t c
  /-- It finishes a release (R167). -/
  | release (c : Instr) (cause : c = .release ∨ c = .bootLanesClose) (m : BootMode) (b : Option Bank)
      (ready : s.boot.stage = .releaseReady m b ∨ s.boot.stage = .releaseClosing m b)
      (fixed : t.fixed = { s.fixed with hold := false, meas := { s.meas with bootOpen := false },
                                        grantsA := t.chA.grants }) : Effect s t c
  /-- It restarts the platform (R170). -/
  | restart (ch : Chan)
      (fixed : t.fixed =
        { s.fixed with hold := true, link := { s.link with line := s.link.line.closeA }, grantsA := 0#6,
                       meas := { lanes := List.replicate 8 zeros32, log := [], bootOpen := true } }) :
      Effect s t (.restartPlatform ch)
  /-- It resets every block over the cells of the arrays (R14). -/
  | reset (c : Instr) (cause : c.resets = true) (p : Power) (g : Guard) (cut : Cut) (all : t = s.resetAll p g cut) : Effect s t c
  /-- It ends the pin reset alone (R50). -/
  | awake (c : Instr) (fixed : t.fixed = { s.fixed with power := .loading }) : Effect s t c
  /-- It ends the start-up load (R50). -/
  | load (fixed : t.fixed = { s.fixed with power := .running, grantsS := 3#6, map := s.loaded.store.map, uptime := 0,
                                           meas := { s.meas with bootOpen := true } }) : Effect s t .startUpLoad

theorem effect_of_fixes {r : Result} {s : State} (c : Instr) (h : r.fixes s) : r.all fun t => Effect s t c :=
  Result.all_mono h fun _ ht => .still c ht

theorem effect_of_offLink {r : Result} {s : State} (c : Instr) (h : r.all fun t => t.offLink = s.offLink) :
    r.all fun t => Effect s t c :=
  Result.all_mono h fun _ ht => .link c ht

theorem effect_of_storeStep {r : Result} {s : State} (c : Instr) (h : r.all (StoreStep s)) : r.all fun t => Effect s t c :=
  Result.all_mono h fun _ ht => .store c ht

theorem effect_of_otaStep {r : Result} {s : State} (c : Instr) (h : r.all (OtaStep s)) : r.all fun t => Effect s t c :=
  Result.all_mono h fun _ ht => .ota c ht

/-! ### Resets, the load, a release and a restart -/

theorem execPowerOn_effect (cut : Cut) (s : State) : (execPowerOn cut s).all fun t => Effect s t (.powerOn cut) :=
  .reset _ rfl _ _ _ rfl

theorem execPinReset_effect (cut : Cut) (s : State) : (execPinReset cut s).all fun t => Effect s t (.pinReset cut) := by
  unfold execPinReset; split
  · exact .still _ rfl
  · exact .reset _ rfl _ _ _ rfl

theorem execPowerLoss_effect (cut : Cut) (s : State) : (execPowerLoss cut s).all fun t => Effect s t (.powerLoss cut) := by
  unfold execPowerLoss; split
  · exact .still _ rfl
  · exact .reset _ rfl _ _ _ rfl

theorem execPinResetRelease_effect (s : State) : (execPinResetRelease s).all fun t => Effect s t .pinResetRelease := by
  unfold execPinResetRelease; split
  · exact .awake _ rfl
  · exact .still _ rfl

theorem execStartUpLoad_effect (s : State) : (execStartUpLoad s).all fun t => Effect s t .startUpLoad := by
  unfold execStartUpLoad; split
  · exact .load ((State.settle_fixed _).trans (State.loaded_fixed s))
  · exact .still _ rfl

/-- A release finished from a state with the fixed part and the stage of `s`. -/
theorem finishRelease_effect (s u : State) (c : Instr) (hc : c = .release ∨ c = .bootLanesClose) (m : BootMode) (b : Option Bank)
    (ready : s.boot.stage = .releaseReady m b ∨ s.boot.stage = .releaseClosing m b) (hu : u.fixed = s.fixed) :
    Effect s (u.finishRelease m b).settle c := by
  have hfix := (State.settle_fixed _).trans (State.finishRelease_fixed u m b)
  have hmeas : u.meas = s.meas := congrArg Fixed.meas hu
  refine .release c hc m b ready ?_
  rw [hfix, hu, hmeas]
  exact congrArg (fun g => { s.fixed with hold := false, meas := { s.meas with bootOpen := false }, grantsA := g })
    (congrArg Fixed.grantsA hfix).symm

theorem execRelease_effect (s : State) : (execRelease s).all fun t => Effect s t .release := by
  unfold execRelease; split
  · split
    · exact .still _ rfl
    · dsimp only
      split
      · exact .still _ rfl
      · exact finishRelease_effect s _ _ (.inl rfl) _ _ (.inl ‹_›) rfl
  · exact .still _ rfl

theorem execBootLanesClose_effect (s : State) : (execBootLanesClose s).all fun t => Effect s t .bootLanesClose := by
  unfold execBootLanesClose; split
  · split
    · exact .still _ rfl
    · exact finishRelease_effect s _ _ (.inr rfl) _ _ (.inr ‹_›) rfl
  · exact .still _ rfl

theorem execRestartPlatform_effect (ch : Chan) (s : State) :
    (execRestartPlatform ch s).all fun t => Effect s t (.restartPlatform ch) :=
  serve_all s _ _ _ (.still _ rfl) fun body _ => by
    cases body with
    | cons b rest => exact .still _ ((State.settle_fixed _).trans (State.refuse_fixed _ _ _))
    | nil =>
      unfold State.emptyBody
      cases hphase : s.inBootPhase with
      | true => exact .still _ ((State.settle_fixed _).trans (State.refuse_fixed _ _ _))
      | false =>
        cases ch with
        | S => exact .restart _ ((State.settle_fixed _).trans ((State.reply_fixed _ _ _ _).trans (State.restart_fixed s)))
        | A => exact .restart _ ((State.settle_fixed _).trans (State.restart_fixed s))

theorem execUptimeTick_effect (s : State) : (execUptimeTick s).all fun t => Effect s t .uptimeTick :=
  Result.all_mono (execUptimeTick_all s) fun _ ⟨hfix, hup⟩ => .tick _ hfix (by omega)

/-! ### Every command -/

/-- Every command answers a next state, of one of the forms: one case for each row of the table. -/
theorem exec_effect (c : Instr) (s : State) : Result.all (exec c s) fun t => Effect s t c := by
  cases c with
  | powerOn cut => exact execPowerOn_effect cut s
  | pinReset cut => exact execPinReset_effect cut s
  | powerLoss cut => exact execPowerLoss_effect cut s
  | pinResetRelease => exact execPinResetRelease_effect s
  | startUpLoad => exact execStartUpLoad_effect s
  | release => exact execRelease_effect s
  | bootLanesClose => exact execBootLanesClose_effect s
  | restartPlatform ch => exact execRestartPlatform_effect ch s
  | uptimeTick => exact execUptimeTick_effect s
  | restrictGrants => exact Result.all_mono (execRestrictGrants_all s) fun _ ⟨hfix, hfalls⟩ => .narrow _ hfix hfalls
  | setGuard => exact Result.all_mono (execSetGuard_all s) fun _ ⟨hfix, _⟩ => .guard _ hfix
  | freezeGuard => exact Result.all_mono (execFreezeGuard_all s) fun _ ⟨hfix, _⟩ => .guard _ hfix
  | ownerReset rcv => exact Result.all_mono (execOwnerReset_all rcv s) fun _ hfix => .button _ hfix
  | extendJobEnd => exact Result.all_mono (execExtendJobEnd_all s) fun _ ⟨hfix, hgrows, _⟩ => .extend _ hfix hgrows
  | addressByte b => exact effect_of_offLink _ (execAddressByte_offLink b s)
  | writeDataByte b => exact effect_of_offLink _ (execWriteDataByte_offLink b s)
  | frameClose => exact effect_of_offLink _ (execFrameClose_offLink s)
  | readFrame n ends => exact effect_of_offLink _ (execReadFrame_offLink n ends s)
  | stuckLineTimerExpiry => exact effect_of_offLink _ (execStuckLineTimerExpiry_offLink s)
  | pageProgramDone bad => exact effect_of_storeStep _ (execPageProgramDone_step bad s)
  | pageVoidDone bad => exact effect_of_storeStep _ (execPageVoidDone_step bad s)
  | copyProgramDone bad => exact effect_of_storeStep _ (execCopyProgramDone_step bad s)
  | blockEraseDone left => exact effect_of_storeStep _ (execBlockEraseDone_step left s)
  | recoveryEraseDone left => exact effect_of_storeStep _ (execRecoveryEraseDone_step left s)
  | otaByteProgrammed stuck => exact effect_of_otaStep _ (execOtaByteProgrammed_step stuck s)
  | counterBitProgrammed ok => exact effect_of_otaStep _ (execCounterBitProgrammed_step ok s)
  | lockBitProgrammed ok => exact effect_of_otaStep _ (execLockBitProgrammed_step ok s)
  | retireBitProgrammed ok => exact effect_of_otaStep _ (execRetireBitProgrammed_step ok s)
  | identify ch => exact effect_of_fixes _ (execIdentify_fixes ch s)
  | readEvents ch => exact effect_of_fixes _ (execReadEvents_fixes ch s)
  | getSetting ch => exact effect_of_fixes _ (execGetSetting_fixes ch s)
  | setSetting => exact effect_of_fixes _ (execSetSetting_fixes s)
  | writeIdentity => exact effect_of_fixes _ (execWriteIdentity_fixes s)
  | generateDeviceKeys => exact effect_of_fixes _ (execGenerateDeviceKeys_fixes s)
  | installRoot => exact effect_of_fixes _ (execInstallRoot_fixes s)
  | readStoreHealth ch => exact effect_of_fixes _ (execReadStoreHealth_fixes ch s)
  | writeSlot ch => exact effect_of_fixes _ (execWriteSlot_fixes ch s)
  | generateKey ch => exact effect_of_fixes _ (execGenerateKey_fixes ch s)
  | deleteSlot ch => exact effect_of_fixes _ (execDeleteSlot_fixes ch s)
  | readSlotInfo ch => exact effect_of_fixes _ (execReadSlotInfo_fixes ch s)
  | verifyOwner => exact effect_of_fixes _ (execVerifyOwner_fixes s)
  | endOwner => exact effect_of_fixes _ (execEndOwner_fixes s)
  | setVerifier => exact effect_of_fixes _ (execSetVerifier_fixes s)
  | readThrottle ch => exact effect_of_fixes _ (execReadThrottle_fixes ch s)
  | openKey ch => exact effect_of_fixes _ (execOpenKey_fixes ch s)
  | closeKey ch => exact effect_of_fixes _ (execCloseKey_fixes ch s)
  | pinKey ch => exact effect_of_fixes _ (execPinKey_fixes ch s)
  | unpinKey ch => exact effect_of_fixes _ (execUnpinKey_fixes ch s)
  | listContexts ch => exact effect_of_fixes _ (execListContexts_fixes ch s)
  | sign ch => exact effect_of_fixes _ (execSign_fixes ch s)
  | derive ch => exact effect_of_fixes _ (execDerive_fixes ch s)
  | releaseSecret ch => exact effect_of_fixes _ (execReleaseSecret_fixes ch s)
  | extend ch => exact effect_of_fixes _ (execExtend_fixes ch s)
  | readLanes ch => exact effect_of_fixes _ (execReadLanes_fixes ch s)
  | readLog ch => exact effect_of_fixes _ (execReadLog_fixes ch s)
  | quote ch => exact effect_of_fixes _ (execQuote_fixes ch s)
  | readBootState ch => exact effect_of_fixes _ (execReadBootState_fixes ch s)
  | releaseRecovery => exact effect_of_fixes _ (execReleaseRecovery_fixes s)
  | selectBank => exact effect_of_fixes _ (execSelectBank_fixes s)
  | admitBank => exact effect_of_fixes _ (execAdmitBank_fixes s)
  | admissionStatus ch => exact effect_of_fixes _ (execAdmissionStatus_fixes ch s)
  | abortAdmission => exact effect_of_fixes _ (execAbortAdmission_fixes s)
  | confirmBoot => exact effect_of_fixes _ (execConfirmBoot_fixes s)
  | hashChunkEnd => exact effect_of_fixes _ (execHashChunkEnd_fixes s)
  | finishDigestEnd => exact effect_of_fixes _ (execFinishDigestEnd_fixes s)
  | verifySignatureEnd => exact effect_of_fixes _ (execVerifySignatureEnd_fixes s)
  | signJobEnd => exact effect_of_fixes _ (execSignJobEnd_fixes s)
  | deriveJobEnd => exact effect_of_fixes _ (execDeriveJobEnd_fixes s)
  | stretchEnd => exact effect_of_fixes _ (execStretchEnd_fixes s)
  | keygenEnd healthy draws => exact effect_of_fixes _ (execKeygenEnd_fixes healthy draws s)
  | randomEnd healthy drawn => exact effect_of_fixes _ (execRandomEnd_fixes healthy drawn s)
  | ownerGrantIdleExpiry => exact effect_of_fixes _ (execOwnerGrantIdleExpiry_fixes s)
  | flashIdReadDone b0 b1 b2 => exact effect_of_fixes _ (execFlashIdReadDone_fixes b0 b1 b2 s)
  | manifestReadDone bytes => exact effect_of_fixes _ (execManifestReadDone_fixes bytes s)
  | chunkReadDone bytes => exact effect_of_fixes _ (execChunkReadDone_fixes bytes s)
  | bootPhaseBegin => exact effect_of_fixes _ (execBootPhaseBegin_fixes s)
  -- The one that is left is SEAL, the name of whose constructor is a keyword.
  | _ => exact effect_of_fixes _ (execSeal_fixes s)

theorem effect_of_exec {c : Instr} {s t : State} (h : exec c s = .next t) : Effect s t c :=
  Result.all_next (exec_effect c s) h

/-- A step idles, or runs the front command on the state with the rest of the queue. -/
theorem step_cases {s t : State} (h : step s = .next t) :
    t = s ∨ ∃ c rest, s.pending = c :: rest ∧ exec c (s.withPending rest) = .next t := by
  unfold step at h
  cases hq : s.pending with
  | nil => rw [hq] at h; cases h; exact .inl rfl
  | cons c rest => rw [hq] at h; exact .inr ⟨c, rest, rfl, h⟩

/-! ### The arrays -/

theorem effect_memOk {s t : State} {c : Instr} (e : Effect s t c) (hwf : Memory.wf s.store.mem = true) :
    Memory.wf t.store.mem = true := by
  have same {m : List Host.Cell} (h : m = s.store.mem) : Memory.wf m = true := h ▸ hwf
  cases e with
  | still _ h | guard _ h | narrow _ h | button _ h | extend _ h | tick _ h | release _ _ _ _ _ h | restart _ h
  | awake _ h | load h => exact same (congrArg Fixed.mem h)
  | link _ h => exact same (congrArg Fixed.mem h)
  | store _ h => exact h.wf hwf
  | ota _ h => exact same (congrArg Fixed.mem h.fixed)
  | reset _ _ _ _ _ h => exact h ▸ Store.afterCut_wf _ _ hwf

/-- Settles O54: idling changes nothing, and every form of a command's effect keeps the array's form. -/
theorem memoryKeepsItsForm : Obligations.MemoryKeepsItsForm := by
  intro s t hstep hwf
  obtain rfl | ⟨c, rest, -, hexec⟩ := step_cases hstep
  · exact hwf
  · exact effect_memOk (s := s.withPending rest) (effect_of_exec hexec) hwf

theorem effect_cells {s t : State} {c : Instr} (e : Effect s t c) : s.ota.cells.OnlyProgrammed t.ota.cells := by
  have same {x : Cells} (h : x = s.ota.cells) : s.ota.cells.OnlyProgrammed x := h ▸ Cells.OnlyProgrammed.refl _
  cases e with
  | still _ h | guard _ h | narrow _ h | button _ h | extend _ h | tick _ h | release _ _ _ _ _ h | restart _ h
  | awake _ h | load h => exact same (congrArg Fixed.cells h)
  | link _ h => exact same (congrArg Fixed.cells h)
  | store _ h => exact same (congrArg Fixed.cells h.fixed)
  | ota _ h => exact h.cells
  | reset _ _ _ _ _ h => exact h ▸ Ota.afterCut_falls _ _

/-- Settles O55: the ends of programming steps and the cuts of resets only clear cells; no other form of effect touches them. -/
theorem oneTimeCellsAreOnlyProgrammed : Obligations.OneTimeCellsAreOnlyProgrammed := by
  intro s t hstep
  obtain rfl | ⟨c, rest, -, hexec⟩ := step_cases hstep
  · exact Cells.OnlyProgrammed.refl _
  · exact effect_cells (s := s.withPending rest) (effect_of_exec hexec)

/-! ### The log, the clock, the grant sets and the generations -/

theorem effect_log {s t : State} {c : Instr} (e : Effect s t c) (hresets : c.resets = false)
    (hrestart : ∀ ch, c ≠ .restartPlatform ch) : s.meas.log <+: t.meas.log := by
  have same {l : List LogEntry} (h : l = s.meas.log) : s.meas.log <+: l := h ▸ List.prefix_refl _
  cases e with
  | still _ h | guard _ h | narrow _ h | button _ h | tick _ h | release _ _ _ _ _ h | awake _ h | load h =>
    exact same (congrArg (fun f => f.meas.log) h)
  | link _ h => exact same (congrArg (fun f => f.meas.log) h)
  | store _ h => exact same (congrArg (fun f => f.meas.log) h.fixed)
  | ota _ h => exact same (congrArg (fun f => f.meas.log) h.fixed)
  | extend _ _ h => exact h
  | restart ch => exact absurd rfl (hrestart ch)
  | reset _ hc => rw [hresets] at hc; cases hc

theorem effect_uptime {s t : State} {c : Instr} (e : Effect s t c) (hresets : c.resets = false) (hload : c ≠ .startUpLoad) :
    s.owner.uptime ≤ t.owner.uptime := by
  have same {n : Nat} (h : n = s.owner.uptime) : s.owner.uptime ≤ n := Nat.le_of_eq h.symm
  cases e with
  | still _ h | guard _ h | narrow _ h | button _ h | extend _ h | release _ _ _ _ _ h | restart _ h | awake _ h =>
    exact same (congrArg Fixed.uptime h)
  | link _ h => exact same (congrArg Fixed.uptime h)
  | store _ h => exact same (congrArg Fixed.uptime h.fixed)
  | ota _ h => exact same (congrArg Fixed.uptime h.fixed)
  | tick _ _ h => exact h
  | load => exact absurd rfl hload
  | reset _ hc => rw [hresets] at hc; cases hc

theorem effect_grantsA {s t : State} {c : Instr} (e : Effect s t c) (hrelease : c ≠ .release) (hclose : c ≠ .bootLanesClose) :
    t.chA.grants &&& ~~~ s.chA.grants = 0#6 := by
  have same {g : DomSet} (h : g = s.chA.grants) : g &&& ~~~ s.chA.grants = 0#6 := h ▸ andNot_self _
  have empty {g : DomSet} (h : g = 0#6) : g &&& ~~~ s.chA.grants = 0#6 := by simp [h]
  cases e with
  | still _ h | guard _ h | button _ h | extend _ h | tick _ h | awake _ h | load h => exact same (congrArg Fixed.grantsA h)
  | link _ h => exact same (congrArg Fixed.grantsA h)
  | store _ h => exact same (congrArg Fixed.grantsA h.fixed)
  | ota _ h => exact same (congrArg Fixed.grantsA h.fixed)
  | narrow _ _ h => exact h
  | restart _ h => exact empty (congrArg Fixed.grantsA h)
  | reset _ _ _ _ _ h => exact empty (h ▸ rfl)
  | release _ hc => exact (hc.elim hrelease hclose).elim

theorem effect_grantsS {s t : State} {c : Instr} (e : Effect s t c) (hresets : c.resets = false) (hload : c ≠ .startUpLoad) :
    t.chS.grants = s.chS.grants := by
  cases e with
  | still _ h | guard _ h | narrow _ h | button _ h | extend _ h | tick _ h | release _ _ _ _ _ h | restart _ h
  | awake _ h => exact congrArg Fixed.grantsS h
  | link _ h => exact congrArg Fixed.grantsS h
  | store _ h => exact congrArg Fixed.grantsS h.fixed
  | ota _ h => exact congrArg Fixed.grantsS h.fixed
  | load => exact absurd rfl hload
  | reset _ hc => rw [hresets] at hc; cases hc

theorem effect_gens {s t : State} {c : Instr} (e : Effect s t c) (hresets : c.resets = false) (hload : c ≠ .startUpLoad) :
    mapRises s.store.map t.store.map := by
  have same {l : List SlotEntry} (h : l = s.store.map) : mapRises s.store.map l := h ▸ mapRises.refl _
  cases e with
  | still _ h | guard _ h | narrow _ h | button _ h | extend _ h | tick _ h | release _ _ _ _ _ h | restart _ h
  | awake _ h => exact same (congrArg Fixed.map h)
  | link _ h => exact same (congrArg Fixed.map h)
  | store _ h => exact h.gens
  | ota _ h => exact same (congrArg Fixed.map h.fixed)
  | load => exact absurd rfl hload
  | reset _ hc => rw [hresets] at hc; cases hc

/-- A generation below its top that rises at most by one does not fall. -/
theorem gen_le_of_rises {st st' : Store} (h : mapRises st.map st'.map) {n : Nat} (htop : st.gen n ≠ 0xFFFFFFFF#32) :
    st.gen n ≤ st'.gen n := by
  rw [Store.gen_eq] at htop ⊢
  rw [Store.gen_eq]
  obtain hsame | hnext := h n
  · rw [hsame]; exact BitVec.le_refl _
  · rw [hnext]; bv_omega

/-- Settles O56: each claim is read off the forms of a command's effect; the frozen guard is `frozen_guard_stays`. -/
theorem oneWayState : Obligations.OneWayState := by
  refine ⟨fun c s t hexec => ?_, fun c s t n hexec hresets hload => gen_le_of_rises ?_⟩
  · have e := effect_of_exec hexec
    exact ⟨effect_log e, frozen_guard_stays hexec, effect_uptime e, effect_grantsA e, effect_grantsS e⟩
  · exact effect_gens (effect_of_exec hexec) hresets hload

/-! ### HOLD_N -/

/-- Settles O57: a release is the one form of effect that ends with HOLD_N released where it was asserted. -/
theorem onlyAReleaseLetsThePlatformGo : Obligations.OnlyAReleaseLetsThePlatformGo := by
  intro c s t hexec hheld hfree
  have kept (h : t.hold = s.hold) : False := by rw [hheld, hfree] at h; cases h
  cases effect_of_exec hexec with
  | still _ h | guard _ h | narrow _ h | button _ h | extend _ h | tick _ h | awake _ h | load h =>
    exact (kept (congrArg Fixed.hold h)).elim
  | link _ h => exact (kept (congrArg Fixed.hold h)).elim
  | store _ h => exact (kept (congrArg Fixed.hold h.fixed)).elim
  | ota _ h => exact (kept (congrArg Fixed.hold h.fixed)).elim
  | restart _ h => exact (kept ((congrArg Fixed.hold h).trans hheld.symm)).elim
  | reset _ _ _ _ _ h => exact (kept ((congrArg State.hold h).trans hheld.symm)).elim
  | release _ hc m b hready h => exact ⟨hc, ⟨m, b, hready⟩, congrArg (fun f => f.meas.bootOpen) h⟩

end Sys2Proof.Machine

/-! The step, the queue and settling; the commands whose event cannot happen. -/
namespace Sys2Proof.Machine

/-- Settles O1: a step on a queue that is not empty is its front command, by definition. -/
theorem stepRunsTheFrontCommand : Obligations.StepRunsTheFrontCommand := by
  intro c rest s h
  unfold step
  rw [h]

/-! ### Settling -/

/-- After `n` due turns the loop goes on from the state they lead to. -/
theorem settleLoop_turns (u : Nat → State) (fuel n : Nat) (due : ∀ i, i < n → (u i).settle1 = some (u (i + 1))) :
    settleLoop (fuel + n) (u 0) = settleLoop fuel (u n) := by
  induction n generalizing fuel with
  | zero => rfl
  | succ n ih =>
    have before : settleLoop (fuel + 1 + n) (u 0) = settleLoop (fuel + 1) (u n) := ih _ fun i hi => due i (by omega)
    rw [← settleLoop_turn fuel (due n (by omega)), ← before]
    congr 1
    omega

/-- The bound on the turns is 2000, and at the bound settling stops. -/
theorem State.settle_turns (u : Nat → State) (n : Nat) (hn : n ≤ 2000) (due : ∀ i, i < n → (u i).settle1 = some (u (i + 1)))
    (stops : (u n).quiet = true ∨ n = 2000) : (u 0).settle = u n := by
  have hloop := settleLoop_turns u (2000 - n) n due
  rw [Nat.sub_add_cancel hn] at hloop
  refine hloop.trans ?_
  obtain hquiet | rfl := stops
  · exact settleLoop_quiet _ _ hquiet
  · rfl

/-! ### The arbiter -/

/-- No claim waits exactly when each claimant has none. -/
theorem Engine.noClaim_iff (e : Engine) : e.noClaim = true ↔ ∀ who, e.claim who = none := by
  unfold Engine.noClaim
  simp only [Bool.and_eq_true, Option.isNone_iff_eq_none, and_assoc]
  constructor
  · rintro ⟨hS, hA, hF⟩ who
    cases who <;> assumption
  · exact fun h => ⟨h .S, h .A, h .F⟩

theorem State.grantEngine_noClaim (s : State) (h : s.engine.running ≠ none ∨ s.engine.noClaim = true) :
    s.grantEngine = none := by
  rw [State.grantEngine_none]
  obtain hrunning | hclaim := h
  · exact .inl (Option.isSome_iff_ne_none.2 hrunning)
  · refine .inr (List.find?_eq_none.2 fun who _ => ?_)
    simp [(Engine.noClaim_iff _).1 hclaim who]

/-- The first claimant in the order that has a claim. -/
theorem Engine.find_first (e : Engine) {pre post : List Claimant} {who : Claimant} {p : Pending}
    (horder : e.order = pre ++ who :: post) (hpre : ∀ c, c ∈ pre → e.claim c = none) (hclaim : e.claim who = some p) :
    (e.order.find? fun c => (e.claim c).isSome) = some who := by
  rw [horder, List.find?_append, List.find?_cons_of_pos (by simp [hclaim])]
  have none_before : (pre.find? fun c => (e.claim c).isSome) = none :=
    List.find?_eq_none.2 fun c hc => by simp [hpre c hc]
  rw [none_before]; rfl

/-- A claimant that stands once in the order moves to its end. -/
theorem moveLast_split {pre post : List Claimant} {who : Claimant} (hpre : who ∉ pre) (hpost : who ∉ post) :
    moveLast who (pre ++ who :: post) = pre ++ post ++ [who] := by
  have stays {l : List Claimant} (h : who ∉ l) : l.filter (· != who) = l :=
    List.filter_eq_self.2 fun c hc => bne_iff_ne.2 fun e => h (e ▸ hc)
  unfold moveLast
  rw [List.filter_append, List.filter_cons_of_neg (by simp), stays hpre, stays hpost]

/-- Gathering the inputs of a claim leaves the engine alone. -/
@[simp] theorem State.gather_engine (s : State) (ch : Chan) (c : Claim) : (s.gather ch c).2.engine = s.engine := by
  have note (h : Handle) (x : Ctx) : (s.noteUse h x).engine = s.engine := by
    unfold State.noteUse
    cases x.needsOwner
    · rfl
    · exact State.useGrant_engine s
  cases c with
  | signCtx h d | deriveCtx h info =>
    unfold State.gather
    dsimp only
    split
    · exact State.reply_engine _ _ _ _
    · exact note _ _
  | releaseCtx h =>
    unfold State.gather
    dsimp only
    split
    · exact State.reply_engine _ _ _ _
    · exact (State.reply_engine _ _ _ _).trans (note _ _)
  | extendReq lane d l =>
    unfold State.gather
    dsimp only
    split
    · exact State.reply_engine _ _ _ _
    · rfl
  | _ => rfl

/-- The first claimant in the order with a claim is granted the engine when its inputs give a job. -/
theorem State.grantEngine_job (s t : State) {who : Claimant} {p : Pending} {j : Job} (hfree : s.engine.running = none)
    (hfind : (s.engine.order.find? fun c => (s.engine.claim c).isSome) = some who) (hclaim : s.engine.claim who = some p)
    (hgather : (s.mapEngine (·.setClaim who none)).gather who.chan p.claim = (some j, t)) :
    s.grantEngine =
      some (t.mapEngine fun e =>
        { e with running := some { who := who, job := j, dropped := p.dropped }, order := moveLast who e.order }) := by
  unfold State.grantEngine
  simp only [hfree, hfind, hclaim, hgather]

/-- Its claim ends without a job when its inputs give none. -/
theorem State.grantEngine_ends (s t : State) {who : Claimant} {p : Pending} (hfree : s.engine.running = none)
    (hfind : (s.engine.order.find? fun c => (s.engine.claim c).isSome) = some who) (hclaim : s.engine.claim who = some p)
    (hgather : (s.mapEngine (·.setClaim who none)).gather who.chan p.claim = (none, t)) : s.grantEngine = some t := by
  unfold State.grantEngine
  simp only [hfree, hfind, hclaim, hgather]

/-- Settles O2: the loop by induction on the turns, the arbiter by what gathering answers for the first claim in the order. -/
theorem idleAndSettling : Obligations.IdleAndSettling := by
  refine ⟨fun s h => ?idles, fun s t => ⟨State.settle_quiet s, State.settle_one⟩,
    fun n u hn due stops => State.settle_turns u n hn due stops, fun s => ⟨State.grantEngine_noClaim s, ?grants⟩⟩
  case idles => unfold step; rw [h]
  case grants =>
    rintro pre post who p u hfree horder hpre hpost hearlier hclaim rfl
    have hfind := Engine.find_first _ horder hearlier hclaim
    constructor
    · intro j t hgather
      have hengine : t.engine = s.engine.setClaim who none :=
        (congrArg (fun x => x.2.engine) hgather).symm.trans (State.gather_engine _ _ _)
      have hkept : (s.engine.setClaim who none).order = s.engine.order := by cases who <;> rfl
      rw [State.grantEngine_job s t hfree hfind hclaim hgather]
      simp only [State.mapEngine, hengine, hkept, horder, moveLast_split hpre hpost]
    · intro t hgather
      exact ⟨State.grantEngine_ends s t hfree hfind hclaim hgather,
        (congrArg (fun x => x.2.engine) hgather).symm.trans (State.gather_engine _ _ _)⟩

/-! ### Every command answers and keeps the queue -/

theorem effect_pending {s t : State} {c : Instr} (e : Effect s t c) : t.pending = s.pending := by
  cases e with
  | still _ h | guard _ h | narrow _ h | button _ h | extend _ h | tick _ h | release _ _ _ _ _ h | restart _ h
  | awake _ h | load h => exact congrArg Fixed.pending h
  | link _ h => exact congrArg Fixed.pending h
  | store _ h => exact congrArg Fixed.pending h.fixed
  | ota _ h => exact congrArg Fixed.pending h.fixed
  | reset _ _ _ _ _ h => exact h ▸ rfl

theorem exec_answers (c : Instr) (s : State) : ∃ t, exec c s = .next t := by
  have h := exec_effect c s
  cases hexec : exec c s with
  | next t => exact ⟨t, rfl⟩
  | fault f => exact nomatch f
  | refused r => rw [hexec] at h; exact h.elim

/-! ### The commands whose event cannot happen -/

/-- A request that does not stand in the channel is not taken. -/
theorem serve_of_none {s : State} {ch : Chan} {code : Byte} (h : s.request ch code = none) (f : Bytes → State) :
    s.serve ch code f = .next s := by
  unfold State.serve; rw [h]

/-- The ends of an engine job that is not the running one. -/
theorem jobEnds_elsewhere (s : State) :
    ((∀ r st bytes, s.engine.running = some r → r.job ≠ .hashChunk st bytes) → exec .hashChunkEnd s = .next s) ∧
    ((∀ r p st final, s.engine.running = some r → r.job ≠ .finishDigest p st final) → exec .finishDigestEnd s = .next s) ∧
    ((∀ r lane v d l src, s.engine.running = some r → r.job ≠ .extend lane v d l src) → exec .extendJobEnd s = .next s) ∧
    ((∀ r key d sig, s.engine.running = some r → r.job ≠ .verifySig key d sig) → exec .verifySignatureEnd s = .next s) ∧
    ((∀ r k d, s.engine.running = some r → r.job ≠ .sign k d) → exec .signJobEnd s = .next s) ∧
    ((∀ r k info, s.engine.running = some r → r.job ≠ .derive k info) → exec .deriveJobEnd s = .next s) ∧
    ((∀ r salt cand, s.engine.running = some r → r.job ≠ .stretch salt cand) → exec .stretchEnd s = .next s) ∧
    ((∀ r k, s.engine.running = some r → r.job ≠ .keygen k) → ∀ ok draws, exec (.keygenEnd ok draws) s = .next s) ∧
    ((∀ r n, s.engine.running = some r → r.job ≠ .random n) → ∀ ok drawn, exec (.randomEnd ok drawn) s = .next s) := by
  cases hrun : s.engine.running with
  | none =>
    simp [exec, execHashChunkEnd, execFinishDigestEnd, execExtendJobEnd, execVerifySignatureEnd, execSignJobEnd,
      execDeriveJobEnd, execStretchEnd, execKeygenEnd, execRandomEnd, hrun]
  | some r =>
    refine ⟨fun h => ?_, fun h => ?_, fun h => ?_, fun h => ?_, fun h => ?_, fun h => ?_, fun h => ?_, fun h _ _ => ?_,
      fun h _ _ => ?_⟩ <;>
    cases hjob : r.job <;>
    simp_all [exec, execHashChunkEnd, execFinishDigestEnd, execExtendJobEnd, execVerifySignatureEnd, execSignJobEnd,
      execDeriveJobEnd, execStretchEnd, execKeygenEnd, execRandomEnd]

/-- The ends of an array operation, a programming step or a flash read that is not in progress. -/
theorem arrayEnds_elsewhere (s : State) :
    ((∀ page bytes, s.store.op ≠ some (.program page bytes)) → ∀ bad, exec (.pageProgramDone bad) s = .next s) ∧
    ((∀ page, s.store.op ≠ some (.void page) ∧ s.store.op ≠ some (.copyVoid page)) →
      ∀ bad, exec (.pageVoidDone bad) s = .next s) ∧
    ((∀ src dst bytes, s.store.op ≠ some (.copy src dst bytes)) → ∀ bad, exec (.copyProgramDone bad) s = .next s) ∧
    ((∀ b, s.store.op ≠ some (.erase b)) → ∀ left, exec (.blockEraseDone left) s = .next s) ∧
    ((∀ b, s.store.op ≠ some (.recoveryErase b)) → ∀ left, exec (.recoveryEraseDone left) s = .next s) := by
  refine ⟨fun h bad => ?_, fun h bad => ?_, fun h bad => ?_, fun h left => ?_, fun h left => ?_⟩
  · show execPageProgramDone bad s = _
    unfold execPageProgramDone; split
    · exact absurd ‹_› (h _ _)
    · rfl
  · show execPageVoidDone bad s = _
    unfold execPageVoidDone; split
    · exact absurd ‹_› (h _).1
    · exact absurd ‹_› (h _).2
    · rfl
  · show execCopyProgramDone bad s = _
    unfold execCopyProgramDone; split
    · exact absurd ‹_› (h _ _ _)
    · rfl
  · show execBlockEraseDone left s = _
    unfold execBlockEraseDone; split
    · exact absurd ‹_› (h _)
    · rfl
  · show execRecoveryEraseDone left s = _
    unfold execRecoveryEraseDone; split
    · exact absurd ‹_› (h _)
    · rfl

theorem otaEnds_elsewhere (s : State) :
    ((∀ r pos, s.ota.current = some r → r.op.byteAt pos = none) → ∀ stuck, exec (.otaByteProgrammed stuck) s = .next s) ∧
    ((∀ r k target filer, s.ota.current = some r → r.op ≠ .advance k target filer) →
      ∀ ok, exec (.counterBitProgrammed ok) s = .next s) ∧
    ((∀ r, s.ota.current = some r → r.op ≠ .seal) → ∀ ok, exec (.lockBitProgrammed ok) s = .next s) ∧
    ((∀ r b, s.ota.current = some r → r.op ≠ .retire b) → ∀ ok, exec (.retireBitProgrammed ok) s = .next s) := by
  refine ⟨fun h stuck => ?_, fun h ok => ?_, fun h ok => ?_, fun h ok => ?_⟩
  · show execOtaByteProgrammed stuck s = _
    unfold execOtaByteProgrammed; split
    case h_4 => rfl
    all_goals exact absurd (h _ 0 ‹_›) (by simp [OtaOp.byteAt])
  · show execCounterBitProgrammed ok s = _
    unfold execCounterBitProgrammed; split
    · exact absurd rfl (h _ _ _ _ ‹_›)
    · rfl
  · show execLockBitProgrammed ok s = _
    unfold execLockBitProgrammed; split
    · exact absurd rfl (h _ ‹_›)
    · rfl
  · show execRetireBitProgrammed ok s = _
    unfold execRetireBitProgrammed; split
    · exact absurd rfl (h _ _ ‹_›)
    · rfl

theorem readEnds_elsewhere (s : State) :
    ((∀ f, s.checker.flash = some f → f.read ≠ .id) → ∀ b0 b1 b2, exec (.flashIdReadDone b0 b1 b2) s = .next s) ∧
    ((∀ f, s.checker.flash = some f → f.read ≠ .manifest) → ∀ bytes, exec (.manifestReadDone bytes) s = .next s) ∧
    ((∀ f n, s.checker.flash = some f → f.read ≠ .chunk n) → ∀ bytes, exec (.chunkReadDone bytes) s = .next s) := by
  refine ⟨fun h b0 b1 b2 => ?_, fun h bytes => ?_, fun h bytes => ?_⟩
  · show execFlashIdReadDone b0 b1 b2 s = _
    unfold execFlashIdReadDone; split
    · exact if_neg (h _ ‹_›)
    · rfl
  · show execManifestReadDone bytes s = _
    unfold execManifestReadDone; split
    · exact if_neg (h _ ‹_›)
    · rfl
  · show execChunkReadDone bytes s = _
    unfold execChunkReadDone; split
    · split
      · exact absurd ‹_› (h _ _ ‹_›)
      all_goals rfl
    · rfl

/-- The commands outside the jobs, the arrays and the requests. -/
theorem events_elsewhere (s : State) :
    (s.power ≠ .inReset → exec .pinResetRelease s = .next s) ∧ (s.power ≠ .loading → exec .startUpLoad s = .next s) ∧
    (∀ cut, s.power = .off → exec (.pinReset cut) s = .next s ∧ exec (.powerLoss cut) s = .next s) ∧
    (∀ b, s.power = .off → exec (.addressByte b) s = .next s ∧ exec .frameClose s = .next s) ∧
    (s.power ≠ .running → exec .uptimeTick s = .next s) ∧
    (s.owner.idleDue = false → exec .ownerGrantIdleExpiry s = .next s) ∧
    (s.boot.stage ≠ .phaseWait → exec .bootPhaseBegin s = .next s) :=
  ⟨fun h => if_neg h, fun h => if_neg h, fun _ h => ⟨if_pos h, if_pos h⟩, fun _ h => ⟨if_pos h, if_pos h⟩,
    fun h => if_neg fun h' => h h'.1, fun h => if_neg (by simp [h]), fun h => if_neg fun h' => h h'.1⟩

/-- A transfer byte or a timer in a line state that has no such transfer. -/
theorem transfers_elsewhere (s : State) :
    (s.link.line = .waitStart ∨ s.link.line = .ignoring → exec .stuckLineTimerExpiry s = .next s) ∧
    (∀ n ends, (s.link.line = .waitStart ∨ s.link.line = .ignoring ∨ ∃ ch k, s.link.line = .write ch k) →
      exec (.readFrame n ends) s = .next s) ∧
    (∀ b, (s.link.line = .waitStart ∨ s.link.line = .readReleased ∨
        ∃ ch pos, s.link.line = .readReply ch pos ∨ s.link.line = .readNoReply ch pos) →
      exec (.writeDataByte b) s = .next s) := by
  refine ⟨?_, fun n ends => ?_, fun b => ?_⟩
  · rintro (h | h) <;> simp [exec, execStuckLineTimerExpiry, h]
  · rintro (h | h | ⟨ch, k, h⟩) <;> simp [exec, execReadFrame, h]
  · rintro (h | h | ⟨ch, pos, h | h⟩) <;> simp [exec, execWriteDataByte, h]

/-- A release that is not ready, or whose part does not run with channel A CLOSED. -/
theorem releases_elsewhere (s : State) :
    ((∀ m b, s.boot.stage ≠ .releaseReady m b) ∨ s.power ≠ .running ∨ s.chA.state ≠ .closed →
      exec .release s = .next s) ∧
    ((∀ m b, s.boot.stage ≠ .releaseClosing m b) ∨ s.power ≠ .running ∨ s.chA.state ≠ .closed →
      exec .bootLanesClose s = .next s) := by
  have early (h : s.power ≠ .running ∨ s.chA.state ≠ .closed) : s.beforeOpening = false := by
    unfold State.beforeOpening
    obtain h | h := h <;> simp [h]
  constructor
  · rintro (h | h)
    · show execRelease s = _
      unfold execRelease; split
      · exact absurd ‹_› (h _ _)
      · rfl
    · show execRelease s = _
      unfold execRelease; split
      · exact if_pos (by simp [early h])
      · rfl
  · rintro (h | h)
    · show execBootLanesClose s = _
      unfold execBootLanesClose; split
      · exact absurd ‹_› (h _ _)
      · rfl
    · show execBootLanesClose s = _
      unfold execBootLanesClose; split
      · exact if_pos (by simp [early h])
      · rfl

/-- Settles O3: an answer and its queue are read off the forms of a command's effect; a command whose event cannot happen takes the
branch that answers its own state. -/
theorem everyCommandAnswersAndKeepsTheQueue : Obligations.EveryCommandAnswersAndKeepsTheQueue := by
  refine ⟨exec_answers, fun c s t h => effect_pending (effect_of_exec h), fun s => ?others, jobEnds_elsewhere, fun s => ?arrays,
    fun s ch rcv code c => ⟨?both, ?onS, ?onA⟩⟩
  case others =>
    obtain ⟨h1, h2, h3, h4, h5, h6, h7⟩ := events_elsewhere s
    obtain ⟨l1, l2, l3⟩ := transfers_elsewhere s
    exact ⟨h1, h2, h3, h4, l1, l2, l3, h5, h6, h7, releases_elsewhere s⟩
  case arrays =>
    obtain ⟨a1, a2, a3, a4, a5⟩ := arrayEnds_elsewhere s
    obtain ⟨o1, o2, o3, o4⟩ := otaEnds_elsewhere s
    exact ⟨a1, a2, a3, a4, a5, o1, o2, o3, o4, readEnds_elsewhere s⟩
  all_goals
    simp only [List.mem_cons, Prod.mk.injEq, List.not_mem_nil, or_false]
    intro hrow hnone
  case both =>
    obtain ⟨rfl, rfl⟩ | ⟨rfl, rfl⟩ | ⟨rfl, rfl⟩ | ⟨rfl, rfl⟩ | ⟨rfl, rfl⟩ | ⟨rfl, rfl⟩ | ⟨rfl, rfl⟩ | ⟨rfl, rfl⟩ | ⟨rfl, rfl⟩ |
      ⟨rfl, rfl⟩ | ⟨rfl, rfl⟩ | ⟨rfl, rfl⟩ | ⟨rfl, rfl⟩ | ⟨rfl, rfl⟩ | ⟨rfl, rfl⟩ | ⟨rfl, rfl⟩ | ⟨rfl, rfl⟩ | ⟨rfl, rfl⟩ |
      ⟨rfl, rfl⟩ | ⟨rfl, rfl⟩ | ⟨rfl, rfl⟩ | ⟨rfl, rfl⟩ | ⟨rfl, rfl⟩ | ⟨rfl, rfl⟩ := hrow
    all_goals exact serve_of_none hnone _
  case onS =>
    obtain ⟨rfl, rfl⟩ | ⟨rfl, rfl⟩ | ⟨rfl, rfl⟩ | ⟨rfl, rfl⟩ | ⟨rfl, rfl⟩ | ⟨rfl, rfl⟩ | ⟨rfl, rfl⟩ | ⟨rfl, rfl⟩ |
      ⟨rfl, rfl⟩ := hrow
    all_goals exact serve_of_none hnone _
  case onA =>
    obtain ⟨rfl, rfl⟩ | ⟨rfl, rfl⟩ | ⟨rfl, rfl⟩ | ⟨rfl, rfl⟩ | ⟨rfl, rfl⟩ | ⟨rfl, rfl⟩ | ⟨rfl, rfl⟩ | ⟨rfl, rfl⟩ := hrow
    all_goals exact serve_of_none hnone _

end Sys2Proof.Machine

/-! The link: addresses, data bytes, frames, reads and the stuck-line timer (O4 to O9). -/
namespace Sys2Proof.Machine

theorem setLine_setAck (s : State) (l : Line) (a : Bool) : (s.setLine l).setAck a = s.onLine l a := rfl

/-! ### Addresses (R1, R3) -/

/-- With no write in progress there is nothing to close. -/
theorem closeWrite_of_noWrite {s : State} (h : ∀ ch n, s.link.line ≠ .write ch n) : s.closeWrite = s := by
  unfold State.closeWrite
  split
  · exact absurd ‹_› (h _ _)
  all_goals rfl

theorem execAddressByte_of_noWrite {s : State} (b : Byte) (hpower : s.power = .running)
    (hline : ∀ ch n, s.link.line ≠ .write ch n) :
    exec (.addressByte b) s = .next (s.onLine (s.address b).2 (s.address b).1) := by
  have hon : s.power ≠ .off := by simp [hpower]
  refine (if_neg hon).trans ?_
  rw [closeWrite_of_noWrite hline]
  rfl

/-- A repeated START answers as an address does after the STOP. -/
theorem execAddressByte_after_close (b : Byte) {s t : State} (h : exec .frameClose s = .next t) :
    exec (.addressByte b) s = exec (.addressByte b) t := by
  by_cases hoff : s.power = .off
  · have hsame : exec .frameClose s = .next s := if_pos hoff
    rw [hsame] at h
    cases h
    rfl
  · have hclose : exec .frameClose s = .next (s.closeWrite.setLine .waitStart) := if_neg hoff
    have hpower : s.closeWrite.power = s.power := by
      unfold State.closeWrite
      repeat' split
      all_goals simp
    rw [hclose] at h
    cases h
    have hstill : ¬ (s.closeWrite.setLine .waitStart).power = .off := by simpa [hpower] using hoff
    refine (if_neg hoff).trans (Eq.trans ?_ (if_neg hstill).symm)
    rw [closeWrite_of_noWrite (s := s.closeWrite.setLine .waitStart) (fun _ _ h => nomatch h)]
    rfl

/-- Settles O4: a repeated START first closes the write; then the answer is read off the address and the channel's state. -/
theorem addressByteAnswersByState : Obligations.AddressByteAnswersByState := by
  intro b s
  refine ⟨fun t h => execAddressByte_after_close b h, fun hpower hline => ⟨fun hS hA => ?_, fun ch haddr => ?_⟩⟩
  · rw [execAddressByte_of_noWrite b hpower hline]
    simp [State.address, hpower, chanOfAddress, hS, hA]
  · have hchan : chanOfAddress (b.toNat / 2) = some ch := by rw [haddr]; cases ch <;> rfl
    rw [execAddressByte_of_noWrite b hpower hline]
    refine ⟨fun h => ?_, fun h => ?_, fun h hr => ?_, fun h hr => ?_, fun h hr => ?_, fun h hr => ?_⟩
    · simp only [State.address, hpower, hchan, h, ne_eq, not_true, if_false]
    · simp only [State.address, hpower, hchan, h, ne_eq, not_true, if_false]
    all_goals simp only [State.address, hpower, hchan, h, hr, ne_eq, not_true, if_false]

/-! ### Data bytes (R4, R6) -/

theorem execWriteDataByte_of_write {s : State} (b : Byte) {ch : Chan} {n : Nat} (hline : s.link.line = .write ch n)
    (hreceives : (s.chan ch).startReceiving.state = .receiving) :
    exec (.writeDataByte b) s =
      .next ((s.setChan ch ((s.chan ch).startReceiving.takeData b).1).onLine
        (.write ch (if ((s.chan ch).startReceiving.takeData b).2 then n + 1 else n))
        ((s.chan ch).startReceiving.takeData b).2) := by
  show execWriteDataByte b s = _
  unfold execWriteDataByte
  rw [hline]
  exact if_pos hreceives

theorem startReceiving_of_receiving {c : Channel} (h : c.state = .receiving) : c.startReceiving = c := by
  unfold Channel.startReceiving; rw [h]

/-- Settles O5: the first byte opens the request buffer, and a byte in RECEIVING is taken by how much of the frame has arrived. -/
theorem dataBytesFillTheRequestBuffer : Obligations.DataBytesFillTheRequestBuffer := by
  rintro b s ch n c hline rfl
  constructor
  · intro hopens
    have hstart : (s.chan ch).startReceiving =
        { s.chan ch with state := .receiving, rxLen := [], rx := [], condemned := false, reply := none } := by
      unfold Channel.startReceiving
      obtain h | h := hopens <;> rw [h] <;> rfl
    rw [execWriteDataByte_of_write b hline (by rw [hstart])]
    simp [hstart, Channel.takeData]
  · intro hreceiving
    have hstart := startReceiving_of_receiving hreceiving
    rw [execWriteDataByte_of_write b hline (by rw [hstart, hreceiving]), hstart]
    refine ⟨fun hcond => ?_, fun h hcond hlen => ?_, fun h l hcond hlen hroom => ?_, fun h l hcond hlen hfull => ?_⟩
    · simp [Channel.takeData, hcond]
    · simp [Channel.takeData, hcond, hlen, Channel.declared]
    · simp [Channel.takeData, hcond, hlen, Channel.declared, hroom]
    · simp [Channel.takeData, hcond, hlen, Channel.declared, Nat.not_lt.2 hfull]

/-! ### Closing a frame (R5 to R8) -/

theorem execFrameClose_of_write {s : State} {ch : Chan} {n : Nat} (hon : s.power ≠ .off) (hline : s.link.line = .write ch n)
    (hreceiving : (s.chan ch).state = .receiving) :
    exec .frameClose s = .next ((s.setChan ch ((s.chan ch).close s.ota.lifecycle ch)).setLine .waitStart) := by
  refine (if_neg hon).trans ?_
  unfold State.closeWrite
  rw [hline]
  simp [hreceiving]

theorem answer_eq_holding (c : Channel) (st : Status) : c.answer st = c.holding st [] := rfl

/-- A frame that is not condemned and has arrived in full, its check split off. -/
theorem close_of_complete {c : Channel} {body check : Bytes} (lc : Lifecycle) (ch : Chan) (hcond : c.condemned = false)
    (hlen : c.rxLen.length = 2) (hrx : c.rx = body ++ check) (hbody : body.length = beNat c.rxLen) (hcheck : check.length = 2) :
    c.close lc ch =
      if check = crcBytes (c.rxLen ++ body) then
        match permission lc ch (byteAt c.rx 0) with
        | some st => c.answer st
        | none => { c.clearRx with state := .working, reply := none, work := .handed (byteAt c.rx 0) body.tail }
      else c.answer .frameCheck := by
  have hcomplete : c.complete = true := by simp [Channel.complete, Channel.declared, hlen, hrx, hbody, hcheck]
  have htake : c.rx.take c.declared = body := by rw [hrx, Channel.declared, ← hbody, List.take_left]
  have hdrop : c.rx.drop c.declared = check := by rw [hrx, Channel.declared, ← hbody, List.drop_left]
  unfold Channel.close
  simp only [hcond, hcomplete, htake, hdrop, if_true, Bool.false_eq_true, if_false] <;> rfl

/-- Settles O6: the branches of `Channel.close`. -/
theorem frameCloseJudgesTheFrame : Obligations.FrameCloseJudgesTheFrame := by
  rintro s ch n c hon hline rfl
  refine ⟨fun hother => ?_, fun hreceiving => ?_⟩
  · refine (if_neg hon).trans ?_
    unfold State.closeWrite
    rw [hline]
    simp [hother]
  · rw [execFrameClose_of_write hon hline hreceiving]
    refine ⟨fun hcond => ?_, fun hcond hshort => ?_, fun body check hcond hlen hrx hbody hcheck => ?_⟩
    · simp [Channel.close, hcond, answer_eq_holding]
    · have hpart : (s.chan ch).complete = false := by
        unfold Channel.complete Channel.declared
        obtain h | h := hshort <;> simp [h]
      simp [Channel.close, hcond, hpart, answer_eq_holding]
    · rw [close_of_complete _ _ hcond hlen hrx hbody hcheck]
      refine ⟨fun hbad => ?_, fun code args hgood hsplit => ⟨fun st hperm => ?_, fun hperm => ?_⟩⟩
      · rw [if_neg hbad, answer_eq_holding]
      all_goals
        have hcode : byteAt (s.chan ch).rx 0 = code := by rw [hrx, hsplit]; rfl
        rw [if_pos hgood, hcode, hperm, hsplit]
        rfl

/-! ### Permission (R8) -/

/-- The codes for both channels, for channel S and for channel A: three lists with no code in common. -/
def bothCodes : List Byte :=
  [0x01#8, 0x02#8, 0x03#8, 0x20#8, 0x28#8, 0x29#8, 0x2A#8, 0x2B#8, 0x33#8, 0x40#8, 0x41#8, 0x42#8, 0x43#8, 0x44#8,
   0x45#8, 0x46#8, 0x47#8, 0x50#8, 0x51#8, 0x52#8, 0x53#8, 0x60#8, 0x62#8, 0x71#8]

def supervisorCodes : List Byte := [0x04#8, 0x10#8, 0x11#8, 0x12#8, 0x13#8, 0x21#8, 0x22#8, 0x34#8, 0x61#8]

def applicationCodes : List Byte := [0x05#8, 0x30#8, 0x31#8, 0x32#8, 0x63#8, 0x70#8, 0x72#8, 0x73#8]

theorem bothCodes_apart : ∀ c ∈ bothCodes, c ∉ supervisorCodes ∧ c ∉ applicationCodes := by decide

theorem supervisorCodes_apart : ∀ c ∈ supervisorCodes, c ∉ applicationCodes := by decide

theorem allowedOn_of_both {code : Byte} (h : code ∈ bothCodes) : allowedOn code = some [.S, .A] :=
  if_pos (List.contains_iff_mem.2 h)

theorem allowedOn_of_supervisor {code : Byte} (hb : code ∉ bothCodes) (h : code ∈ supervisorCodes) :
    allowedOn code = some [.S] :=
  (if_neg fun h' => hb (List.contains_iff_mem.1 h')).trans (if_pos (List.contains_iff_mem.2 h))

theorem allowedOn_of_application {code : Byte} (hb : code ∉ bothCodes) (hs : code ∉ supervisorCodes)
    (h : code ∈ applicationCodes) : allowedOn code = some [.A] :=
  (if_neg fun h' => hb (List.contains_iff_mem.1 h')).trans
    ((if_neg fun h' => hs (List.contains_iff_mem.1 h')).trans (if_pos (List.contains_iff_mem.2 h)))

theorem allowedOn_of_unknown {code : Byte} (hb : code ∉ bothCodes) (hs : code ∉ supervisorCodes)
    (ha : code ∉ applicationCodes) : allowedOn code = none :=
  (if_neg fun h' => hb (List.contains_iff_mem.1 h')).trans
    ((if_neg fun h' => hs (List.contains_iff_mem.1 h')).trans (if_neg fun h' => ha (List.contains_iff_mem.1 h')))

/-- The three checks of R8, over the three lists of codes. -/
theorem permission_eq (lc : Lifecycle) (ch : Chan) (code : Byte) :
    permission lc ch code =
      if code ∉ supervisorCodes ∧ code ∉ applicationCodes ∧ code ∉ bothCodes then some .unknownRequest
      else if (ch = .A ∧ code ∈ supervisorCodes) ∨ (ch = .S ∧ code ∈ applicationCodes) then some .notPermitted
      else if lc = .failed ∧ code ≠ 0x01#8 then some .wrongState
      else none := by
  unfold permission
  by_cases hb : code ∈ bothCodes
  · obtain ⟨hs, ha⟩ := bothCodes_apart code hb
    rw [allowedOn_of_both hb]
    cases ch <;> simp [hb, hs, ha]
  by_cases hs : code ∈ supervisorCodes
  · have ha := supervisorCodes_apart code hs
    rw [allowedOn_of_supervisor hb hs]
    cases ch <;> simp [hb, hs, ha]
  by_cases ha : code ∈ applicationCodes
  · rw [allowedOn_of_application hb hs ha]
    cases ch <;> simp [hb, hs, ha]
  · rw [allowedOn_of_unknown hb hs ha]
    simp [hb, hs, ha]

/-- Settles O7: `permission_eq`, its three lists written out. -/
theorem permissionChecksInOrder : Obligations.PermissionChecksInOrder := permission_eq

/-! ### Reads and the stuck-line timer (R10, R11) -/

theorem execReadFrame_of_reply {s : State} (n : Nat) (ends : Bool) {ch : Chan} {pos : Nat} {r : Reply}
    (hline : s.link.line = .readReply ch pos) (hreply : (s.chan ch).reply = some r) :
    exec (.readFrame n ends) s =
      if r.frame.length ≤ pos + n then
        .next (((s.setOut (clocked r.frame pos n)).replyRead ch).setLine (if ends then .waitStart else .readReleased))
      else .next ((s.setOut (clocked r.frame pos n)).setLine (if ends then .waitStart else .readReply ch (pos + n))) := by
  show execReadFrame n ends s = _
  unfold execReadFrame
  simp only [hline, hreply]

theorem execReadFrame_of_noReply {s : State} (n : Nat) (ends : Bool) {ch : Chan} {pos : Nat}
    (hline : s.link.line = .readNoReply ch pos) :
    exec (.readFrame n ends) s =
      .next ((s.setOut (clocked noReplyFrame pos n)).setLine (if ends then .waitStart else .readNoReply ch (pos + n))) := by
  show execReadFrame n ends s = _
  unfold execReadFrame
  simp only [hline]

theorem execStuckLineTimerExpiry_of_write {s : State} {ch : Chan} {n : Nat} (hline : s.link.line = .write ch n) :
    exec .stuckLineTimerExpiry s =
      .next ((if (s.chan ch).state = .receiving then
          s.setChan ch ((s.chan ch).answer (if (s.chan ch).condemned then .frameLength else .frameShort))
        else s).setLine .ignoring) := by
  show execStuckLineTimerExpiry s = _
  unfold execStuckLineTimerExpiry
  simp only [hline]

/-- Settles O8: the branches of a read and of the timer, by the line state. -/
theorem readsAndTheStuckLineTimer : Obligations.ReadsAndTheStuckLineTimer := by
  constructor
  · intro n ends s ch pos
    refine ⟨fun r hline hreply => ⟨fun hend => ?_, fun hmore => ?_⟩, fun hline => ?_⟩
    · rw [execReadFrame_of_reply n ends hline hreply, if_pos hend]
      cases ch <;> rfl
    · rw [execReadFrame_of_reply n ends hline hreply, if_neg (Nat.not_le.2 hmore)]
      rfl
    · rw [execReadFrame_of_noReply n ends hline]
      rfl
  · rintro s ch n c rfl
    refine ⟨fun hline => ?_, ?_⟩
    · rw [execStuckLineTimerExpiry_of_write hline]
      refine ⟨fun hrec hcond => ?_, fun hrec hcond => ?_, fun hrec => ?_⟩
      · simp [hrec, hcond, answer_eq_holding]
      · simp [hrec, hcond, answer_eq_holding]
      · rw [if_neg hrec]
    · rintro (hline | hline) <;> simp [exec, execStuckLineTimerExpiry, hline]

/-! ### Reply frames (R2) -/

/-- Settles O9: the two check figures are computed; the frame is its definition. -/
theorem replyFrameAndItsCheck : Obligations.ReplyFrameAndItsCheck := by
  refine ⟨by decide +kernel, rfl, fun st body => ?_⟩
  unfold Reply.frame crcBytes
  simp

end Sys2Proof.Machine

/-! Requests answered from RAM (O11 to O15, O17 to O24). -/
namespace Sys2Proof.Machine

/-- A request with an empty body that takes an empty body is answered at once. -/
theorem serve_empty {s : State} {ch : Chan} {code : Byte} (h : s.request ch code = some []) (t : State) :
    (s.serve ch code fun body => s.emptyBody ch body t) = .next t := serve_of_request h _

/-! ### IDENTIFY, READ EVENTS, GET SETTING, RESTRICT GRANTS -/

/-- Settles O11: the body is `identifyBody`, entry by entry. -/
theorem identifyReportsTheUnit : Obligations.IdentifyReportsTheUnit := by
  intro ch s hreq
  refine (serve_empty hreq _).trans ?_
  have entry : (fun r : RootRam => flagByte r.present :: (if r.present then r.digest else zeros32)) =
      fun r => if r.present then 1#8 :: r.digest else 0#8 :: List.replicate 32 0#8 := by
    funext r
    cases r.present <;> rfl
  unfold State.identifyBody
  rw [entry]
  rfl

theorem takeEvent_of_none {s : State} {ch : Chan} (h : (s.chan ch).firstFlag = none) :
    s.takeEvent ch = s.reply ch .ok [eventCode none, 0#8] := by
  unfold State.takeEvent; simp only [h]

theorem takeEvent_of_flag {s : State} {ch : Chan} {i : Nat} (h : (s.chan ch).firstFlag = some i) :
    s.takeEvent ch =
      (s.setChan ch ((s.chan ch).setFlag i false)).reply ch .ok
        [eventCode (Chan.events ch)[i]?, byte ((s.chan ch).setFlag i false).flagCount] := by
  unfold State.takeEvent; simp only [h]

/-- Settles O12: the flag taken is the first one set, in the order of the channel's events. -/
theorem readEventsClearsTheFirst : Obligations.ReadEventsClearsTheFirst := by
  rintro ch s c e1 e2 e3 rfl hreq hevents
  have hexec : exec (.readEvents ch) s = .next (s.takeEvent ch) := serve_empty hreq _
  have hnamed : (Chan.events ch)[0]? = some e1 ∧ (Chan.events ch)[1]? = some e2 ∧ (Chan.events ch)[2]? = some e3 := by
    cases ch <;> cases hevents <;> exact ⟨rfl, rfl, rfl⟩
  obtain ⟨h1, h2, h3⟩ := hnamed
  rw [hexec]
  refine ⟨fun f1 => ?_, fun f1 f2 => ?_, fun f1 f2 f3 => ?_, fun f1 f2 f3 => ?_⟩
  · rw [takeEvent_of_flag (i := 0) (by simp [Channel.firstFlag, f1]), h1]
    simp [Channel.setFlag, Channel.flagCount]
  · rw [takeEvent_of_flag (i := 1) (by simp [Channel.firstFlag, f1, f2]), h2]
    simp [Channel.setFlag, Channel.flagCount, f1]
  · rw [takeEvent_of_flag (i := 2) (by simp [Channel.firstFlag, f1, f2, f3]), h3]
    simp [Channel.setFlag, Channel.flagCount, f1, f2, byte]
  · rw [takeEvent_of_none (by simp [Channel.firstFlag, f1, f2, f3])]
    rfl

theorem byte_self (n : Byte) : byte n.toNat = n := BitVec.eq_of_toNat_eq (byte_toNat n.isLt)

/-- Settles O13: a number of the table reads its field, every other number is refused. -/
theorem getSettingReportsRam : Obligations.GetSettingReportsRam := by
  intro ch s n hreq
  have hexec : exec (.getSetting ch) s =
      .next (if settingNumber n.toNat then s.reply ch .ok (byte n.toNat :: be 4 (s.settings.get n.toNat))
        else s.refuse ch .badArgument) := serve_of_request hreq _
  rw [hexec]
  constructor
  · intro hlow hhigh
    have hnum : settingNumber n.toNat = true := by simp [settingNumber, hlow, hhigh]
    rw [if_pos hnum, byte_self]
    obtain h | h | h | h | h | h | h : n.toNat = 1 ∨ n.toNat = 2 ∨ n.toNat = 3 ∨ n.toNat = 4 ∨ n.toNat = 5 ∨ n.toNat = 6 ∨
        n.toNat = 7 := by omega
    all_goals rw [h]; rfl
  · intro hout
    have hnum : settingNumber n.toNat = false := by
      obtain rfl | h := hout
      · rfl
      · simp [settingNumber, h]
    rw [hnum]
    rfl

/-- Of the domains that were granted, those that leave the set are those that are removed. -/
theorem narrow_eq (s : State) (remove : DomSet) :
    s.narrow remove =
      ({ s with chA := { s.chA with grants := s.chA.grants &&& ~~~remove } } : State).invalidate fun c : Ctx =>
        c.owner == Chan.A && c.domain.any fun d : Domain =>
          s.chA.grants.getLsbD d.bit && !(s.chA.grants &&& ~~~remove).getLsbD d.bit := by
  refine congrArg (State.invalidate _) (funext fun c => ?_)
  congr 2
  funext d
  have hbit : d.bit < 6 := by cases d <;> decide
  rw [BitVec.getLsbD_and, BitVec.getLsbD_not]
  cases s.chA.grants.getLsbD d.bit <;> cases remove.getLsbD d.bit <;> simp [hbit]

/-- Settles O14: what `narrow` takes out of the set, and the two answers. -/
theorem restrictGrantsNarrows : Obligations.RestrictGrantsNarrows := by
  intro s n hreq
  have hexec : exec .restrictGrants s =
      .next (if n.toNat < 64 then
          (s.narrow (BitVec.ofNat 6 n.toNat)).reply .A .ok [(s.narrow (BitVec.ofNat 6 n.toNat)).chA.grants.setWidth 8]
        else s.refuse .A .badArgument) := serve_of_request hreq _
  rw [hexec]
  refine ⟨?_, fun h => by rw [if_neg (by omega)]; rfl⟩
  rintro h left rfl
  rw [if_pos h, BitVec.ofNat_toNat, narrow_eq]
  rfl

/-! ### READ STORE HEALTH, READ SLOT INFO -/

/-- What READ STORE HEALTH reports after the fault record. -/
def State.healthCounts (s : State) : Bytes :=
  [byte (s.store.countBlocks .free), byte (s.store.countBlocks .filled), byte (s.store.countBlocks .retired),
    blockCode (s.store.firstBlock .openBlock), blockCode s.store.spareReport]
  ++ be 2 (s.store.alivePages.filter s.store.isLive).length ++ be 2 (s.store.alivePages.filter s.store.isStale).length
  ++ be 2 (s.store.alivePages.filter fun p => !s.store.isUsed p && !s.store.isLive p).length ++ be 2 s.store.freePages
  ++ [flagByte s.store.degraded, byte s.guard.lower, byte s.guard.upper, flagByte s.guard.invert, flagByte s.guard.frozen]

theorem healthBody_eq (s : State) : s.healthBody = faultBytes s.store.fault ++ s.healthCounts := by
  simp [State.healthBody, State.healthCounts, Guard.bytes]

theorem healthCounts_length (s : State) : s.healthCounts.length = 18 := by
  simp [State.healthCounts, be_length]

/-- Settles O15: the report is the fault record's bytes and 18 bytes more, and the record is the one thing that goes. -/
theorem readStoreHealthClearsTheFault : Obligations.ReadStoreHealthClearsTheFault := by
  intro ch s hreq
  refine ⟨s.healthBody, serve_empty hreq _, ?_⟩
  rw [healthBody_eq]
  refine ⟨fun hnone => ?_, fun f hf => ?_, fun hnone => ?_, fun hsome => ?_, ?_⟩
  · rw [hnone]; rfl
  · rw [hf]; rfl
  · simp [hnone, faultBytes, optBytes, healthCounts_length]
  · obtain ⟨f, hf⟩ := Option.ne_none_iff_exists'.1 hsome
    simp [hf, faultBytes, optBytes, healthCounts_length, be_length]
  · rw [List.length_append, healthCounts_length, Nat.add_sub_cancel, List.drop_left]
    rfl

theorem execReadSlotInfo_of_user {ch : Chan} {s : State} {n : Byte} (hreq : s.request ch 0x2B#8 = some [n])
    (huser : userSlot n.toNat = true) :
    exec (.readSlotInfo ch) s =
      .next (s.store.keptRec n.toNat |>.elim (s.reply ch .noSlot (be 4 (s.store.gen n.toNat).toNat)) fun r =>
        if s.granted ch r.domain then s.reply ch .ok (slotInfo (s.store.gen n.toNat) r) else s.refuse ch .notPermitted) := by
  refine (serve_of_request hreq _).trans ?_
  simp only [oneByte, huser, if_true]
  cases s.store.keptRec n.toNat <;> rfl

/-- Settles O17: the answers of READ SLOT INFO by the slot's record; the fields are those of `slotInfo`. -/
theorem readSlotInfoReportsTheRecord : Obligations.ReadSlotInfoReportsTheRecord := by
  intro ch s n hreq hlow hhigh
  have huser : userSlot n.toNat = true := by simp [userSlot, hlow, hhigh]
  rw [execReadSlotInfo_of_user hreq huser]
  refine ⟨fun hnone => ?_, fun r hr hout => ?_, fun r hr hin => ?_⟩
  · rw [hnone]; rfl
  · rw [hr]; simp [hout, State.refuse]
  · rw [hr]
    have hinfo : slotInfo (s.store.gen n.toNat) r =
        [r.kind.code, domainCode r.domain, r.flags, flagByte r.needsOwner] ++ be 4 (s.store.gen n.toNat).toNat ++ [r.mask]
          ++ optBytes (if r.mask = 0#8 then none else some r.composite) ++ [byte r.label.length] ++ r.label
          ++ optBytes (if r.kind = .signingKey then some (slice r.payload 32 64)
                       else if r.kind = .trustAnchor then some r.payload else none)
          ++ optBytes (if r.kind = .secret then some [byte r.payload.length] else none)
          ++ optBytes (if r.kind = .verifier then some (slice r.payload 48 9 ++ [byteAt r.payload 57]) else none) := by
      cases hk : r.kind <;> simp [slotInfo, hk]
    simp only [Option.elim, hin, if_true, hinfo]

/-! ### END OWNER, the uptime clock and READ THROTTLE -/

/-- The grant's end is `endGrant` (R111). -/
theorem endGrant_some {s : State} {g : Grant} (h : s.owner.grant = some g) :
    s.endGrant =
      (({ s with owner := { s.owner with grant := none, idleDue := false } } : State).invalidate fun c => c.needsOwner).raise
        .A .ownerGrantEnded := by
  unfold State.endGrant; simp only [h]

theorem endGrant_none {s : State} (h : s.owner.grant = none) : s.endGrant = s := by
  unfold State.endGrant; simp only [h]

theorem execUptimeTick_running {s : State} (hpower : s.power = .running) (htop : s.owner.uptime < 4294967295)
    (hdue : s.owner.idleDue = false) :
    exec .uptimeTick s =
      .next { s with owner := { s.owner with
        uptime := s.owner.uptime + 1,
        idleDue := ({ s with owner := { s.owner with uptime := s.owner.uptime + 1 } } : State).grantIdle } } := by
  refine (if_pos ⟨hpower, htop⟩).trans ?_
  simp only [hdue, Bool.false_and, Bool.false_eq_true, if_false]

theorem grantIdle_iff (s : State) :
    s.grantIdle = true ↔ ∃ g, s.owner.grant = some g ∧ s.settings.ownerIdle ≤ s.owner.uptime - g.lastUse := by
  unfold State.grantIdle
  cases s.owner.grant <;> simp

/-- Settles O18: the three places where the grant's end is found. -/
theorem ownerGrantEnds : Obligations.OwnerGrantEnds := by
  refine ⟨fun s hreq => ?_, fun s => ⟨fun hpower htop hdue due hiff => ?_, fun htop => ?_, fun g hdue hgrant hidle => ?_⟩⟩
  · have hexec : exec .endOwner s = .next (s.endGrant.reply .A .ok [flagByte s.owner.grant.isSome]) := serve_empty hreq _
    rw [hexec]
    refine ⟨fun g hg => ?_, fun hnone => ?_⟩
    · rw [endGrant_some hg, hg]; rfl
    · rw [endGrant_none hnone, hnone]; rfl
  · rw [execUptimeTick_running hpower htop hdue]
    have hvalue : ({ s with owner := { s.owner with uptime := s.owner.uptime + 1 } } : State).grantIdle = due := by
      rw [Bool.eq_iff_iff, grantIdle_iff, hiff]
    rw [hvalue]
  · exact if_neg fun h => absurd h.2 (Nat.not_lt.2 htop)
  · have hidle' : s.grantIdle = true := (grantIdle_iff s).2 ⟨g, hgrant, hidle⟩
    refine (if_pos hdue).trans ?_
    rw [if_pos hidle', endGrant_some hgrant]

theorem decayed_same {p : Params} {now : Nat} {e : HoldEntry}
    (h : (now - e.lastEvent) / (p.P * 60) = 0 ∨ p.P = 0 ∨ lockedOut p e.count = true) : decayed p now e = e := by
  unfold decayed
  obtain h | h | h := h <;> simp [h]

theorem decayed_whole {p : Params} {now : Nat} {e : HoldEntry} (hperiod : 0 < p.P) (hopen : lockedOut p e.count = false)
    (hpos : 0 < (now - e.lastEvent) / (p.P * 60)) :
    decayed p now e =
      { e with count := e.count - (now - e.lastEvent) / (p.P * 60),
               lastEvent := e.lastEvent + (now - e.lastEvent) / (p.P * 60) * (p.P * 60) } := by
  unfold decayed
  rw [if_pos ⟨hperiod, hopen⟩]
  exact if_pos hpos

theorem execReadThrottle_of_user {ch : Chan} {s : State} {n : Byte} (hreq : s.request ch 0x33#8 = some [n])
    (huser : userSlot n.toNat = true) :
    exec (.readThrottle ch) s =
      .next (s.store.keptRec n.toNat |>.elim (s.refuse ch .noSlot) fun r =>
        if goodVerifier r then
          (s.applyDecay n.toNat (verifierParams r.payload)).reply ch .ok
            (throttleBody s.owner.uptime r ((s.applyDecay n.toNat (verifierParams r.payload)).holdOf n.toNat))
        else s.refuse ch .slotKind) := by
  refine (serve_of_request hreq _).trans ?_
  simp only [oneByte, huser, if_true]
  cases s.store.keptRec n.toNat <;> rfl

theorem throttleBody_eq (now : Nat) (r : Rec) (e : HoldEntry) (p : Params) (hp : p = verifierParams r.payload) :
    throttleBody now r e =
      [byte e.count, byte p.F, byte p.B] ++ be 4 p.C ++ [byte p.L] ++ be 2 p.P
        ++ be 4 (if p.L ≠ 0 ∧ p.L ≤ e.count then 0 else e.holdUntil - now) ++ [flagByte (p.L != 0 && p.L ≤ e.count)]
        ++ optBytes (if byteAt r.payload 58 = 0#8 then none else some (be 4 (beNat (slice r.payload 59 4)))) := by
  subst hp
  unfold throttleBody paramsBytes verifierMarker
  simp only [lockedOut_iff, apply_ite (Option.map (be 4)), Option.map_none, Option.map_some]
  simp [lockedOut]

/-- Settles O19: the arithmetic of decay and hold-off, and the report of READ THROTTLE over the decayed entry. -/
theorem throttleArithmeticAndReport : Obligations.ThrottleArithmeticAndReport := by
  refine ⟨fun p now f e => ⟨fun h => if_pos h, ?_, lockedOut_iff p f, ?_, decayed_same⟩, fun ch s n hreq hlow hhigh => ?_⟩
  · rintro k rfl
    unfold holdOff
    rw [if_neg (by omega), Nat.add_assoc, Nat.add_sub_cancel_left, Nat.add_sub_cancel_left]
  · rintro d rfl hperiod hopen hpos
    exact decayed_whole hperiod hopen hpos
  · have huser : userSlot n.toNat = true := by simp [userSlot, hlow, hhigh]
    rw [execReadThrottle_of_user hreq huser]
    refine ⟨fun hnone => ?_, fun r hr hkind => ?_, ?_⟩
    · rw [hnone]; rfl
    · rw [hr]; simp [goodVerifier, hkind, State.refuse]
    · rintro r p e e' hr hgood rfl rfl rfl
      rw [hr]
      simp only [Option.elim, hgood, if_true, throttleBody_eq _ _ _ _ rfl]
      rfl

end Sys2Proof.Machine

/-! The handle requests, LIST CONTEXTS, the reports of the measurement block, of the boot controller and of the checker, and the
bodies that are to be empty (O20 to O24). -/
namespace Sys2Proof.Machine

/-! ### CLOSE KEY, PIN KEY and UNPIN KEY -/

theorem withHandle_beyond {s : State} {ch : Chan} {n ep : Byte} (h : 11 < n.toNat) (f : Handle → Ctx → State) :
    s.withHandle ch [n, ep] f = s.reply ch .badArgument [] := by
  simp [State.withHandle, parseHandle, h, State.refuse]

theorem withHandle_stale {s : State} {ch : Chan} {n ep : Byte} (h : n.toNat ≤ 11)
    (hbad : ∀ c, s.ctx.entries[n.toNat]? = some { epoch := ep, ctx := some c } → c.owner ≠ ch) (f : Handle → Ctx → State) :
    s.withHandle ch [n, ep] f = s.reply ch .staleHandle [] := by
  simp [State.withHandle, parseHandle, Nat.not_lt.2 h, goodHandle_none _ _ _ _ hbad, State.refuse]

theorem withHandle_good {s : State} {ch : Chan} {n ep : Byte} {c : Ctx} (h : n.toNat ≤ 11)
    (hentry : s.ctx.entries[n.toNat]? = some { epoch := ep, ctx := some c }) (howner : c.owner = ch)
    (f : Handle → Ctx → State) : s.withHandle ch [n, ep] f = f { entry := n.toNat, epoch := ep } c := by
  simp [State.withHandle, parseHandle, Nat.not_lt.2 h, goodHandle_some _ _ _ _ _ hentry howner]

theorem modify_of_get {α : Type} {l : List α} {i : Nat} {x : α} (f : α → α) (h : l[i]? = some x) : l.modify i f = l.set i (f x) := by
  refine List.ext_getElem? fun k => ?_
  rw [List.getElem?_modify, List.getElem?_set]
  by_cases hk : i = k
  · subst hk
    rw [if_pos rfl, if_pos (List.getElem?_eq_some_iff.1 h).1, h]
    exact congrArg some (if_pos rfl)
  · have hsame : (fun a => if i = k then f a else a) = id := funext fun _ => if_neg hk
    rw [if_neg hk, hsame]
    exact id_map _

/-- A LOADED entry freed in its place. -/
theorem modify_free {l : List CtxEntry} {i : Nat} {ep : Byte} {c : Ctx} (h : l[i]? = some { epoch := ep, ctx := some c }) :
    l.modify i CtxEntry.free = l.set i { epoch := ep + 1#8, ctx := none } :=
  modify_of_get _ h

/-- Settles O20: each request by its handle: beyond the table, not good, or good. -/
theorem closeAndPinKeys : Obligations.CloseAndPinKeys := by
  refine ⟨fun ch s n ep hreq => ⟨fun hout => ?_, fun hin hbad => ?_, fun hin c hentry howner => ?_⟩,
    fun ch s n ep c hin hentry howner t ht => ⟨fun hreq => ?_, fun hreq => ?_⟩, fun ch s n ep c hcases => ?_⟩
  · exact (serve_of_request hreq _).trans (congrArg _ (withHandle_beyond hout _))
  · exact (serve_of_request hreq _).trans (congrArg _ (withHandle_stale hin hbad _))
  · refine (serve_of_request hreq _).trans (congrArg _ ((withHandle_good hin hentry howner _).trans ?_))
    rw [modify_free hentry]
  · have hexec := (serve_of_request hreq fun body => s.withHandle ch body fun h c =>
        if c.pinned then s.pinReply ch
        else if 4 ≤ s.ctx.pinnedCount then s.refuse ch .noRoom
        else { s with ctx := s.ctx.setPinned h c true }.pinReply ch)
    rw [withHandle_good hin hentry howner] at hexec
    refine ⟨fun hpin => hexec.trans ?_, fun hpin hfull => hexec.trans ?_, fun hpin hroom => hexec.trans ?_⟩
    · rw [if_pos hpin]; rfl
    · rw [if_neg (by simp [hpin]), if_pos hfull]; rfl
    · rw [if_neg (by simp [hpin]), if_neg (Nat.not_le.2 hroom), ht]; rfl
  · refine (serve_of_request hreq _).trans (congrArg _ ((withHandle_good hin hentry howner _).trans ?_))
    rw [ht]; rfl
  · obtain ⟨hreq, rfl⟩ | ⟨hreq, rfl⟩ := hcases
    all_goals
      exact ⟨fun hout => (serve_of_request hreq _).trans (congrArg _ (withHandle_beyond hout _)),
        fun hin hbad => (serve_of_request hreq _).trans (congrArg _ (withHandle_stale hin hbad _))⟩

/-! ### LIST CONTEXTS -/

/-- The context of an entry when a channel owns it. -/
def CtxEntry.ownedBy (ch : Chan) (e : CtxEntry) : Option Ctx := e.ctx.filter fun c => c.owner == ch

/-- The item of an entry number, when the channel owns the entry. -/
def CtxTable.ownedAt (t : CtxTable) (ch : Chan) (i : Nat) : Option (Handle × Ctx) :=
  t.entries[i]?.bind fun e => (e.ownedBy ch).map fun c => ({ entry := i, epoch := e.epoch }, c)

theorem owned_eq (t : CtxTable) (ch : Chan) : t.owned ch = (List.range t.entries.length).filterMap (t.ownedAt ch) := by
  unfold CtxTable.owned
  congr 1
  funext i
  unfold CtxTable.ownedAt CtxEntry.ownedBy
  cases t.entries[i]? with
  | none => rfl
  | some e =>
    cases hctx : e.ctx with
    | none => simp [hctx]
    | some c => by_cases howner : c.owner = ch <;> simp [hctx, howner, Option.filter]

/-- A list looked up at each of its positions. -/
theorem filterMap_range_getElem? {α β : Type} (f : α → Option β) (l : List α) :
    (List.range l.length).filterMap (fun i => l[i]?.bind f) = l.filterMap f := by
  induction l with
  | nil => rfl
  | cons a l ih =>
    rw [List.length_cons, List.range_succ_eq_map, List.filterMap_cons, List.filterMap_map]
    have shifted : ((fun i => (a :: l)[i]?.bind f) ∘ Nat.succ) = fun i => l[i]?.bind f := rfl
    rw [shifted, ih, List.filterMap_cons]
    rfl

theorem filterMap_congr_of_mem {α β : Type} {f g : α → Option β} {l : List α} (h : ∀ a ∈ l, f a = g a) :
    l.filterMap f = l.filterMap g := by
  induction l with
  | nil => rfl
  | cons a l ih =>
    rw [List.filterMap_cons, List.filterMap_cons, h a List.mem_cons_self, ih fun b hb => h b (List.mem_cons_of_mem a hb)]

/-- The contexts listed below an entry number are those of the entries below it. -/
theorem ownedAt_below (t : CtxTable) (ch : Chan) {i : Nat} (h : i ≤ t.entries.length) :
    ((List.range i).filterMap (t.ownedAt ch)).map Prod.snd = (t.entries.take i).filterMap (CtxEntry.ownedBy ch) := by
  have hlen : (t.entries.take i).length = i := List.length_take_of_le h
  rw [List.map_filterMap, ← filterMap_range_getElem? (CtxEntry.ownedBy ch), hlen]
  refine filterMap_congr_of_mem fun k hk => ?_
  have hk : k < i := List.mem_range.1 hk
  rw [List.getElem?_take_of_lt hk]
  unfold CtxTable.ownedAt
  cases t.entries[k]? with
  | none => rfl
  | some e => cases h : e.ownedBy ch <;> simp [h]

theorem ownedBy_length (ch : Chan) (p : Ctx → Bool) (l : List CtxEntry) :
    ((l.filterMap (CtxEntry.ownedBy ch)).filter p).length =
      (l.filter fun e => e.ctx.any fun c => c.owner == ch && p c).length := by
  induction l with
  | nil => rfl
  | cons e l ih =>
    cases hctx : e.ctx with
    | none => simp [CtxEntry.ownedBy, hctx, ih]
    | some c =>
      by_cases howner : c.owner = ch
      · have howned : e.ownedBy ch = some c := by simp [CtxEntry.ownedBy, hctx, howner]
        rw [List.filterMap_cons_some howned]
        cases hp : p c <;> simp [hctx, howner, hp, ih]
      · have howned : e.ownedBy ch = none := by simp [CtxEntry.ownedBy, hctx, howner]
        rw [List.filterMap_cons_none howned]
        simp [hctx, howner, ih]

/-- The number of a channel's entries below an entry number. -/
theorem ownedAt_below_length (t : CtxTable) (ch : Chan) {i : Nat} (h : i ≤ t.entries.length) :
    ((List.range i).filterMap (t.ownedAt ch)).length =
      ((t.entries.take i).filter fun e => e.ctx.any fun c => c.owner == ch).length := by
  have hall := ownedBy_length ch (fun _ => true) (t.entries.take i)
  have hself (l : List Ctx) : (l.filter fun _ => true) = l := List.filter_eq_self.2 fun _ _ => rfl
  simp only [Bool.and_true, hself] at hall
  rw [← List.length_map (f := Prod.snd), ownedAt_below t ch h, hall]

/-- The item of an entry stands after those of the entries below it. -/
theorem owned_getElem? (t : CtxTable) (ch : Chan) {i : Nat} {x : Handle × Ctx} (hi : i < t.entries.length)
    (hx : t.ownedAt ch i = some x) : (t.owned ch)[((List.range i).filterMap (t.ownedAt ch)).length]? = some x := by
  have hsplit : List.range t.entries.length = List.range i ++ i :: (List.range t.entries.length).drop (i + 1) := by
    have hlt : i < (List.range t.entries.length).length := by simpa using hi
    have := List.drop_eq_getElem_cons hlt
    rw [List.getElem_range] at this
    rw [← this, show List.range i = (List.range t.entries.length).take i by rw [List.take_range, Nat.min_eq_left (Nat.le_of_lt hi)],
      List.take_append_drop]
  rw [owned_eq, hsplit, List.filterMap_append, List.filterMap_cons, hx]
  simp

theorem useRank_eq (t : CtxTable) (ch : Chan) (stamp : Nat) :
    useRank (t.owned ch) stamp =
      (t.entries.filter fun e => e.ctx.any fun x => x.owner == ch && stamp < x.stamp).length + 1 := by
  have hmap := ownedAt_below t ch (Nat.le_refl t.entries.length)
  rw [List.take_length, ← owned_eq] at hmap
  unfold useRank
  rw [← ownedBy_length ch fun x => stamp < x.stamp, ← hmap, List.filter_map, List.length_map]
  rfl

/-- Settles O21: the items are those of `owned`, each at its place among the channel's entries. -/
theorem listContextsReportsTheTable : Obligations.ListContextsReportsTheTable := by
  intro ch s hreq
  refine ⟨(s.ctx.owned ch).map (contextItem (s.ctx.owned ch)), ?_, ?_, fun i ep c hentry howner => ?_⟩
  · refine (serve_empty hreq _).trans ?_
    rw [List.length_map, ← List.flatMap_def]
    rfl
  · rw [List.length_map, owned_eq, ownedAt_below_length s.ctx ch (Nat.le_refl _), List.take_length]
  · have hi : i < s.ctx.entries.length := (List.getElem?_eq_some_iff.1 hentry).1
    have hat : s.ctx.ownedAt ch i = some ({ entry := i, epoch := ep }, c) := by
      simp [CtxTable.ownedAt, CtxEntry.ownedBy, hentry, howner]
    rw [← ownedAt_below_length s.ctx ch (Nat.le_of_lt hi), List.getElem?_map, owned_getElem? s.ctx ch hi hat, Option.map_some]
    unfold contextItem
    dsimp only
    rw [useRank_eq]

/-! ### READ LANES and READ LOG -/

/-- The entries returned are the first `count` from the first index on, each with its index. -/
theorem logItems_eq (m : Meas) (first count : Nat) :
    m.logItems first count = ((m.log.drop first).take count).mapIdx fun i e => logItem (first + i) e := by
  unfold Meas.logItems
  induction count with
  | zero => rfl
  | succ count ih =>
    rw [List.range_succ, List.filterMap_append, ih, List.take_add_one, List.mapIdx_append, List.getElem?_drop]
    congr 1
    cases hentry : m.log[first + count]? with
    | none => simp [hentry]
    | some e =>
      have hlt : first + count < m.log.length := (List.getElem?_eq_some_iff.1 hentry).1
      have hlen : ((m.log.drop first).take count).length = count := by
        rw [List.length_take, List.length_drop]; omega
      simp [hentry, hlen]

theorem execReadLog_of_args {ch : Chan} {s : State} {f c : Byte} (hreq : s.request ch 0x52#8 = some [f, c]) :
    exec (.readLog ch) s =
      .next (if f.toNat ≤ 47 ∧ 1 ≤ c.toNat ∧ c.toNat ≤ 16 then
          s.reply ch .ok ([byte s.meas.log.length, byte (s.meas.logItems f.toNat c.toNat).length]
            ++ (s.meas.logItems f.toNat c.toNat).flatten)
        else s.refuse ch .badArgument) := by
  refine (serve_of_request hreq _).trans ?_
  by_cases h : f.toNat ≤ 47 ∧ 1 ≤ c.toNat ∧ c.toNat ≤ 16
  · simp only [parseReadLog, if_pos h]
  · simp only [parseReadLog, if_neg h]

/-- Settles O22: the eight lanes in their order, and the items of the log from the first index on. -/
theorem readLanesAndReadLog : Obligations.ReadLanesAndReadLog := by
  refine ⟨fun ch s hreq => ?_, fun ch s f c hreq => ⟨fun hf hc hcount => ?_, fun hbad => ?_⟩⟩
  · refine (serve_empty hreq _).trans ?_
    have lanes : (List.range 8).flatMap s.meas.lane =
        s.meas.lane 0 ++ s.meas.lane 1 ++ s.meas.lane 2 ++ s.meas.lane 3 ++ s.meas.lane 4 ++ s.meas.lane 5 ++ s.meas.lane 6
          ++ s.meas.lane 7 := by simp [List.range_succ]
    rw [lanes]
  · refine ⟨s.meas.logItems f.toNat c.toNat, ?_, ?_, fun i e hi he => ?_⟩
    · rw [execReadLog_of_args hreq, if_pos ⟨hf, hc, hcount⟩]
    · simp [logItems_eq]
    · rw [logItems_eq, List.getElem?_mapIdx, List.getElem?_take_of_lt hi, List.getElem?_drop, he]
      rfl
  · rw [execReadLog_of_args hreq, if_neg ?_]
    · rfl
    · rintro ⟨h1, h2, h3⟩
      obtain h | rfl | h := hbad
      · omega
      · exact absurd h2 (by decide)
      · omega

/-! ### READ BOOT STATE and ADMISSION STATUS -/

/-- Settles O23: the two bodies, with the parts of the admission by its state. -/
theorem bootAndAdmissionStatus : Obligations.BootAndAdmissionStatus := by
  refine ⟨fun ch s hreq => serve_empty hreq _, ?_⟩
  rintro ch s segment manifest hreq rfl rfl
  refine (serve_empty hreq _).trans ?_
  unfold State.admissionBody Checker.segmentReport Checker.manifestReport
  simp only [List.cons_append, List.nil_append, List.append_assoc]
  cases s.checker.adm <;> rfl

/-! ### Bodies that are to be empty -/

theorem emptyBody_cons (s : State) (ch : Chan) (b : Byte) (more : Bytes) (t : State) :
    s.emptyBody ch (b :: more) t = s.refuse ch .badArgument := rfl

/-- A refusal in a quiet state leaves nothing to start. -/
theorem settle_refuse {s : State} (hquiet : s.quiet = true) (ch : Chan) (st : Status) :
    (s.refuse ch st).settle = s.reply ch st [] :=
  State.settle_quiet _ ((State.reply_quiet s ch st []).trans hquiet)

/-- Settles O24: the requests that only answer refuse at once, those that can file work find nothing to start. -/
theorem bodiesOfEmptyRequestsAreRefused : Obligations.BodiesOfEmptyRequestsAreRefused := by
  intro ch s b more hquiet
  simp only [List.mem_cons, Prod.mk.injEq, List.not_mem_nil, or_false]
  refine ⟨fun code c hrow hreq => ?_, fun code c hrow hreq => ?_, fun code c hrow hreq => ?_⟩
  · obtain ⟨rfl, rfl⟩ | ⟨rfl, rfl⟩ | ⟨rfl, rfl⟩ | ⟨rfl, rfl⟩ | ⟨rfl, rfl⟩ | ⟨rfl, rfl⟩ | ⟨rfl, rfl⟩ | ⟨rfl, rfl⟩ := hrow
    case inr.inr.inr.inr.inr.inr.inl => exact (serve_of_request hreq _).trans (congrArg _ (settle_refuse hquiet _ _))
    all_goals exact serve_of_request hreq _
  · obtain ⟨rfl, rfl⟩ | ⟨rfl, rfl⟩ | ⟨rfl, rfl⟩ | ⟨rfl, rfl⟩ | ⟨rfl, rfl⟩ := hrow
    case inr.inr.inl => exact serve_of_request hreq _
    all_goals exact (serve_of_request hreq _).trans (congrArg _ (settle_refuse hquiet _ _))
  · obtain ⟨rfl, rfl⟩ | ⟨rfl, rfl⟩ | ⟨rfl, rfl⟩ := hrow
    case inl => exact serve_of_request hreq _
    all_goals exact (serve_of_request hreq _).trans (congrArg _ (settle_refuse hquiet _ _))

end Sys2Proof.Machine

/-! SET SETTING and the provisioning requests: what they file starts at once in a quiet state (O25, O26). -/
namespace Sys2Proof.Machine

/-- A request that can file work, standing in the channel: its work starts within the command. -/
theorem serveWork_of_request {s : State} {ch : Chan} {code : Byte} {body : Bytes} (h : s.request ch code = some body)
    (f : Bytes → State) : s.serveWork ch code f = .next (f body).settle := serve_of_request h _

/-! ### The take of a job in an idle store -/

/-- The checks of R63 pass for a job whose expected generation is the slot's, whose slot is not at its top, and which the guard does
not judge or lets through. -/
theorem takeCheck_passes {st : Store} {g : Guard} {j : WriteJob} (hidle : st.idle = true)
    (hexpected : j.expected = none ∨ j.expected = some (st.gen j.slot))
    (hguard : j.writer = .channelRequest → userSlot j.slot = true → g.allows j.slot = true)
    (htop : st.gen j.slot ≠ 0xFFFFFFFF#32) : st.takeCheck g j = none := by
  obtain ⟨-, -, -, -, -, hdegraded⟩ := (Store.idle_iff _).1 hidle
  have hsame : (j.expected.any fun x => x != st.gen j.slot) = false := by
    obtain h | h := hexpected <;> simp [h]
  have hopen : ¬ (j.writer = .channelRequest ∧ userSlot j.slot = true ∧ g.allows j.slot = false) := by
    rintro ⟨hwriter, huser, hshut⟩
    rw [hguard hwriter huser] at hshut
    cases hshut
  unfold Store.takeCheck
  rw [hdegraded, hsame, if_neg hopen, if_neg htop]
  rfl

/-- A job that no guard judges, of a slot at its top, fails at the take (R63). -/
theorem takeCheck_top {st : Store} {g : Guard} {j : WriteJob} (hidle : st.idle = true) (hexpected : j.expected = none)
    (hwriter : j.writer ≠ .channelRequest) (htop : st.gen j.slot = 0xFFFFFFFF#32) :
    st.takeCheck g j = some (.fail .wrongState) := by
  obtain ⟨-, -, -, -, -, hdegraded⟩ := (Store.idle_iff _).1 hidle
  have hopen : ¬ (j.writer = .channelRequest ∧ userSlot j.slot = true ∧ g.allows j.slot = false) := fun h => hwriter h.1
  unfold Store.takeCheck
  rw [hdegraded, hexpected, if_neg hopen, if_pos htop]
  rfl

/-- A job taken in an idle store that fails one of the checks of R63 ends there. -/
theorem takeJob_failed {s : State} {j : WriteJob} {o : JobEnd} (h : s.store.takeCheck s.guard j = some o) :
    ({ s with store := { s.store with fifo := [j] } } : State).takeJob j [] = (s.tookJob j).endJob o := by
  rw [State.takeJob_idle, h]

/-- Ending the job taken in an idle store gives its outcome to the filer. -/
theorem tookJob_endJob {s : State} (j : WriteJob) (hidle : s.store.idle = true) (o : JobEnd) :
    (s.tookJob j).endJob o = s.deliver j o := by
  obtain ⟨htaken, -, -, hfifo, -, -⟩ := (Store.idle_iff _).1 hidle
  have hback : (s.tookJob j).mapStore (fun st => { st with taken := none }) = s := by
    cases s with
    | mk power rcv hold link chS chA settings engine ota store guard owner ctx meas boot checker pending =>
      cases store
      simp_all [State.tookJob, State.mapStore]
  show ((s.tookJob j).mapStore fun st => { st with taken := none }).deliver j o = _
  rw [hback]

/-! ### SET SETTING -/

/-- Settles O25: the settings job passes the take's checks or fails the one on its generation; the clamp is that of the table. -/
theorem setSettingFilesTheWrite : Obligations.SetSettingFilesTheWrite := by
  intro s n v hquiet hreq hlen
  obtain ⟨a, b, c, d, rfl⟩ : ∃ a b c d, v = [a, b, c, d] := by
    match v, hlen with
    | [a, b, c, d], _ => exact ⟨a, b, c, d, rfl⟩
  have hexec : exec .setSetting s =
      .next (if settingNumber n.toNat then
          (s.setWork .S .setSetting).fileJob (settingsJob s.settings n.toNat (clampSetting n.toNat (beNat [a, b, c, d])))
        else s.refuse .S .badArgument).settle := serveWork_of_request hreq _
  rw [hexec]
  constructor
  · intro hout
    have hnum : settingNumber n.toNat = false := by
      obtain rfl | h := hout
      · rfl
      · simp [settingNumber, h]
    rw [hnum]
    exact congrArg _ (settle_refuse hquiet _ _)
  · rintro hlow hhigh hidle w hw
    have hnum : settingNumber n.toNat = true := by simp [settingNumber, hlow, hhigh]
    have hclamp : clampSetting n.toNat (beNat [a, b, c, d]) = w := by
      obtain h | h | h | h | h | h | h : n.toNat = 1 ∨ n.toNat = 2 ∨ n.toNat = 3 ∨ n.toNat = 4 ∨ n.toNat = 5 ∨ n.toNat = 6 ∨
          n.toNat = 7 := by omega
      all_goals
        rw [hw, h]
        simp [clampSetting, clamp]
    have hq : (s.setWork .S .setSetting).quiet = true := by simpa using hquiet
    rw [if_pos hnum, hclamp]
    refine ⟨fun st p htop hplace => congrArg _ ?_, fun htop => congrArg _ ?_⟩
    · exact State.settle_job (s.setWork .S .setSetting) _ _ st p hq hidle hplace
        (takeCheck_passes hidle (.inl rfl) (fun h => nomatch h) htop) rfl hq rfl
    · refine State.settle_job_ends (s.setWork .S .setSetting) _ _ _ (.fail .wrongState) hq hidle
        (takeJob_failed (takeCheck_top hidle rfl (fun h => nomatch h) htop)) ?_ ?_
      · exact (tookJob_endJob (s := s.setWork .S .setSetting) _ hidle _).trans (State.setWork_reply s .S .setSetting .wrongState [])
      · exact (State.reply_quiet _ _ _ _).trans hquiet

/-! ### Provisioning (R45 to R49) -/

theorem settle_wrongLifecycle {s : State} (hquiet : s.quiet = true) :
    s.wrongLifecycle.settle = s.reply .S .wrongState [s.ota.lifecycle.code] :=
  settle_reply hquiet _ _ _

theorem execWriteIdentity_of_request {s : State} {args : Bytes} (hreq : s.request .S 0x10#8 = some args) :
    exec .writeIdentity s =
      .next (if args.length ≠ 21 then s.refuse .S .badArgument
        else if s.ota.lifecycle ≠ .blank then s.wrongLifecycle
        else (s.setWork .S .writeIdentity).fileOta (.identity (identityRecord args))).settle := serveWork_of_request hreq _

theorem execGenerateDeviceKeys_of_request {s : State} (hreq : s.request .S 0x11#8 = some []) :
    exec .generateDeviceKeys s =
      .next (if s.ota.lifecycle ≠ .personalized ∨ s.ota.keysExist = true ∨ s.ota.cells.locked 1 = true then s.wrongLifecycle
        else if s.ota.cells.spoiled then s.refuse .S .otpFault
        else (s.setWork .S .keysSeed).fileClaim .S (.keygen .deviceSeed)).settle := serveWork_of_request hreq _

theorem execInstallRoot_of_request {s : State} {key : Bytes} (hreq : s.request .S 0x12#8 = some key) :
    exec .installRoot s =
      .next (if key.length ≠ 64 then s.refuse .S .badArgument
        else if (s.ota.lifecycle ≠ .blank ∧ s.ota.lifecycle ≠ .personalized) ∨ s.ota.cells.locked 2 = true then s.wrongLifecycle
        else (s.setWork .S .rootDigest).fileClaim .S (.digestRoot key)).settle := serveWork_of_request hreq _

theorem execSeal_of_request {s : State} (hreq : s.request .S 0x13#8 = some []) :
    exec .seal s =
      .next (if s.ota.lifecycle ≠ .personalized ∨ s.ota.keysExist = false ∨ s.ota.rootCount = 0 then s.wrongLifecycle
        else (s.setWork .S .seal).fileOta .seal).settle := serveWork_of_request hreq _

/-- SEAL's first lock that is not set, of pages 2, 1 and 0 (R49). -/
theorem nextLock_of_unlocked {c : Cells} {pos : Nat}
    (h : c.locked 2 = false ∧ pos = 0 ∨ c.locked 2 = true ∧ c.locked 1 = false ∧ pos = 1 ∨
      c.locked 2 = true ∧ c.locked 1 = true ∧ c.locked 0 = false ∧ pos = 2) : c.nextLock 0 = some pos := by
  unfold Cells.nextLock
  obtain ⟨h2, rfl⟩ | ⟨h2, h1, rfl⟩ | ⟨h2, h1, h0, rfl⟩ := h
  · simp [h2]
  · simp [h2, h1]
  · simp [h2, h1, h0]

theorem takeOta_seal {s : State} {pos : Nat} (h : s.ota.cells.nextLock 0 = some pos) : s.takeOta .seal = s.otaAt .seal pos := by
  unfold State.takeOta
  simp only [h]

/-- Settles O26: each request by its rule's conditions; the operation or the job it files begins. -/
theorem provisioningRequestsAreTaken : Obligations.ProvisioningRequestsAreTaken := by
  intro s hquiet
  have quiet (w : Work) : (s.setWork .S w).quiet = true := by simpa using hquiet
  refine ⟨fun args hreq => ?identity, fun hreq => ?keys, fun key hreq => ?root, fun hreq => ?seals⟩
  case identity =>
    rw [execWriteIdentity_of_request hreq]
    refine ⟨fun hlen => ?_, fun hlen hlife => ?_, fun hlen hlife hfree hunlocked => ?_⟩
    · rw [if_pos hlen]
      exact congrArg _ (settle_refuse hquiet _ _)
    · rw [if_neg (not_not_intro hlen), if_pos hlife]
      exact congrArg _ (settle_wrongLifecycle hquiet)
    · rw [if_neg (not_not_intro hlen), if_neg (not_not_intro hlife)]
      exact congrArg _ (State.settle_ota _ _ 0 (quiet _) hfree (if_neg (Bool.eq_false_iff.1 hunlocked)))
  case keys =>
    rw [execGenerateDeviceKeys_of_request hreq]
    refine ⟨fun hwrong => ?_, fun hlife hnone hunlocked => ?_⟩
    · rw [if_pos hwrong]
      exact congrArg _ (settle_wrongLifecycle hquiet)
    · rw [if_neg (by simp [hlife, hnone, hunlocked])]
      refine ⟨fun hspoiled => ?_, fun hclean hfree => ?_⟩
      · rw [if_pos hspoiled]
        exact congrArg _ (settle_refuse hquiet _ _)
      · rw [if_neg (by simp [hclean])]
        exact congrArg _ (State.settle_claim (s.setWork .S .keysSeed) .S _ _ (quiet _) hfree rfl)
  case root =>
    rw [execInstallRoot_of_request hreq]
    refine ⟨fun hlen => ?_, fun hlen => ?_⟩
    · rw [if_pos hlen]
      exact congrArg _ (settle_refuse hquiet _ _)
    · rw [if_neg (not_not_intro hlen)]
      refine ⟨fun hwrong => ?_, fun hlife hunlocked hfree => ?_⟩
      · have hrefused : (s.ota.lifecycle ≠ .blank ∧ s.ota.lifecycle ≠ .personalized) ∨ s.ota.cells.locked 2 = true := by
          obtain h | h | h := hwrong <;> simp [h]
        rw [if_pos hrefused]
        exact congrArg _ (settle_wrongLifecycle hquiet)
      · have htaken : ¬ ((s.ota.lifecycle ≠ .blank ∧ s.ota.lifecycle ≠ .personalized) ∨ s.ota.cells.locked 2 = true) := by
          obtain h | h := hlife <;> simp [h, hunlocked]
        rw [if_neg htaken]
        exact congrArg _ (State.settle_claim (s.setWork .S .rootDigest) .S _ _ (quiet _) hfree rfl)
  case seals =>
    rw [execSeal_of_request hreq]
    refine ⟨fun hwrong => ?_, fun pos hlife hkeys hroots hfree hlocks => ?_⟩
    · rw [if_pos hwrong]
      exact congrArg _ (settle_wrongLifecycle hquiet)
    · rw [if_neg (by simp [hlife, hkeys, hroots])]
      exact congrArg _ (State.settle_ota _ _ pos (quiet _) hfree (takeOta_seal (nextLock_of_unlocked hlocks)))

end Sys2Proof.Machine

/-! The programming steps of the one-time array (O27). -/
namespace Sys2Proof.Machine

/-! ### A byte -/

/-- The step of an operation that programs a byte. -/
theorem execOtaByteProgrammed_of_byte {s : State} {op : OtaOp} {pos : Nat} {v : Byte} (stuck : Byte)
    (hrun : s.ota.current = some { op := op, pos := pos }) (hbyte : op.byteAt pos = some v) :
    exec (.otaByteProgrammed stuck) s = .next (s.byteProgrammed op pos stuck).settle := by
  show execOtaByteProgrammed stuck s = _
  unfold execOtaByteProgrammed
  rw [hrun]
  cases op with
  | identity copy | keys seed | root e d => rfl
  | _ => cases hbyte

/-- The state with the byte programmed. -/
def State.withByte (s : State) (op : OtaOp) (pos : Nat) (v stuck : Byte) : State :=
  { s with ota := { s.ota with cells := s.ota.cells.prog op pos v stuck } }

theorem byteProgrammed_good {s : State} {op : OtaOp} {pos : Nat} {v : Byte} (stuck : Byte) (hbyte : op.byteAt pos = some v)
    (hgood : (s.ota.cells.prog op pos v stuck).target op pos = v) :
    s.byteProgrammed op pos stuck =
      if (op.byteAt (pos + 1)).isSome then (s.withByte op pos v stuck).otaAt op (pos + 1)
      else (s.withByte op pos v stuck).bytesEnded op (pos + 1) := by
  unfold State.byteProgrammed
  simp only [hbyte]
  exact if_pos hgood

theorem byteProgrammed_bad {s : State} {op : OtaOp} {pos : Nat} {v : Byte} (stuck : Byte) (hbyte : op.byteAt pos = some v)
    (hbad : (s.ota.cells.prog op pos v stuck).target op pos ≠ v) :
    s.byteProgrammed op pos stuck = (s.withByte op pos v stuck).bytesEnded op pos := by
  unfold State.byteProgrammed
  simp only [hbyte]
  exact if_neg hbad

/-- The state with the cells of the one-time array replaced and the operation in progress ended. -/
def State.otaEnded (s : State) (cells : Cells) : State :=
  { s with ota := { s.ota with cells := cells, current := none } }

/-- Nothing is due in a quiet state whose operation has ended and whose queue is empty. -/
theorem ended_quiet {s : State} {ota : Ota} (hquiet : s.quiet = true) (hqueue : ota.queue = []) :
    ({ s with ota := ota } : State).quiet = true := ota_quiet ota hquiet (.inr hqueue)

/-! ### The notice of the count of roots (R40, R155) -/

@[simp] theorem State.firstTry_ota (s : State) : s.firstTry.ota = s.ota := by
  have failed : s.enterFailed.ota = s.ota := State.setChan_ota _ _ _
  unfold State.firstTry
  dsimp only
  split
  case h_2 => split
              · rfl
              · exact failed
  case h_6 => exact failed
  case h_7 => exact failed
  all_goals rfl

@[simp] theorem State.bankChoice_ota (s : State) : s.bankChoice.ota = s.ota := by
  unfold State.bankChoice
  dsimp only
  split
  · rfl
  · exact State.firstTry_ota _

/-- The pages are judged anew and no bank choice begins: the count of roots is the same, or the notice begins nothing. -/
theorem rejudge_untold (s : State)
    (h : ¬ (s.ota.judge.rootCount ≠ s.ota.rootCount ∧ 0 < s.ota.judge.rootCount ∧ s.boot.stage = .waiting ∧
      s.ota.judge.lifecycle ≠ .failed)) : s.rejudge = { s with ota := s.ota.judge } := by
  by_cases hsame : s.ota.judge.rootCount = s.ota.rootCount
  · exact rejudge_same s hsame
  · refine (if_neg hsame).trans (if_neg fun hnotice => h ⟨hsame, ?_⟩)
    obtain ⟨hstage, hroots, hlife⟩ := hnotice
    exact ⟨hroots, hstage, hlife⟩

/-- The count of roots has changed in WAITING: bank choice begins. -/
theorem rejudge_told (s : State)
    (h : s.ota.judge.rootCount ≠ s.ota.rootCount ∧ 0 < s.ota.judge.rootCount ∧ s.boot.stage = .waiting ∧
      s.ota.judge.lifecycle ≠ .failed) : s.rejudge = ({ s with ota := s.ota.judge } : State).bankChoice := by
  obtain ⟨hchanged, hroots, hstage, hlife⟩ := h
  exact (if_neg hchanged).trans (if_pos ⟨hstage, hroots, hlife⟩)

/-! ### The ends of the operations that program bytes -/

theorem identityEnded_same (s : State) (pos : Nat) (h : s.ota.judge.rootCount = s.ota.rootCount) :
    s.identityEnded pos =
      ({ s with ota := s.ota.judge } : State).reply .S (if 256 ≤ pos then .ok else .otpFault)
        [byte (pos / 64), s.ota.cells.lifecycle.code] := by
  unfold State.identityEnded
  rw [rejudge_same s h]
  rfl

theorem keysEnded_same (s : State) (seed : Bytes) (pos : Nat) (h : s.ota.judge.rootCount = s.ota.rootCount) :
    s.keysEnded seed pos =
      if s.ota.judge.keysExist then
        (({ s with ota := s.ota.judge } : State).setWork .S (.keysAttest (if 65 ≤ pos then .ok else .otpFault))).fileClaim .S
          (.keygen (.attestation seed))
      else ({ s with ota := s.ota.judge } : State).reply .S .otpFault
        [byte (if pos < 64 then 1 else 2), 0#8, s.ota.cells.lifecycle.code] := by
  unfold State.keysEnded
  rw [rejudge_same s h]
  rfl

/-- The reply of INSTALL ROOT's operation over the state that the notice leaves. -/
theorem rootEnded_eq (s t : State) (e : Nat) (d : Bytes) (pos : Nat) (ht : s.rejudge = t)
    (hlife : t.ota.lifecycle = s.ota.cells.lifecycle) :
    s.rootEnded e d pos =
      if 33 ≤ pos then t.reply .S .ok ([byte e] ++ d ++ [s.ota.cells.lifecycle.code])
      else t.reply .S .otpFault [byte e, byte (if pos < 32 then 1 else 2), s.ota.cells.lifecycle.code] := by
  unfold State.rootEnded
  rw [ht]
  simp [State.lifeByte, hlife]

theorem rootEnded_untold (s : State) (e : Nat) (d : Bytes) (pos : Nat)
    (h : ¬ (s.ota.judge.rootCount ≠ s.ota.rootCount ∧ 0 < s.ota.judge.rootCount ∧ s.boot.stage = .waiting ∧
      s.ota.judge.lifecycle ≠ .failed)) :
    s.rootEnded e d pos =
      if 33 ≤ pos then ({ s with ota := s.ota.judge } : State).reply .S .ok ([byte e] ++ d ++ [s.ota.cells.lifecycle.code])
      else ({ s with ota := s.ota.judge } : State).reply .S .otpFault
        [byte e, byte (if pos < 32 then 1 else 2), s.ota.cells.lifecycle.code] :=
  rootEnded_eq s _ e d pos (rejudge_untold s h) rfl

theorem rootEnded_told (s : State) (e : Nat) (d : Bytes) (pos : Nat)
    (h : s.ota.judge.rootCount ≠ s.ota.rootCount ∧ 0 < s.ota.judge.rootCount ∧ s.boot.stage = .waiting ∧
      s.ota.judge.lifecycle ≠ .failed) :
    s.rootEnded e d pos =
      if 33 ≤ pos then
        ({ s with ota := s.ota.judge } : State).bankChoice.reply .S .ok ([byte e] ++ d ++ [s.ota.cells.lifecycle.code])
      else ({ s with ota := s.ota.judge } : State).bankChoice.reply .S .otpFault
        [byte e, byte (if pos < 32 then 1 else 2), s.ota.cells.lifecycle.code] :=
  rootEnded_eq s _ e d pos (rejudge_told s h) (congrArg Ota.lifecycle (State.bankChoice_ota _))

theorem sealEnded_same (s : State) (bad : Option Nat) (h : s.ota.judge.rootCount = s.ota.rootCount) :
    s.sealEnded bad =
      bad.elim (({ s with ota := s.ota.judge } : State).reply .S .ok [s.ota.cells.lifecycle.code]) fun page =>
        ({ s with ota := s.ota.judge } : State).reply .S .otpFault [byte page, s.ota.cells.lifecycle.code] := by
  unfold State.sealEnded
  rw [rejudge_same s h]
  cases bad <;> rfl

/-! ### Bytes of the identity -/

theorem identity_byteAt {copy : Bytes} {pos : Nat} (h : pos < 256) :
    (OtaOp.identity copy).byteAt pos = some (byteAt copy (pos % 64)) := if_pos h

/-- The end of WRITE IDENTITY's operation at a byte that reads back wrong (R46). -/
theorem identity_bad {s : State} {copy : Bytes} {pos : Nat} {v stuck : Byte} {cells : Cells} {ota : Ota}
    (hrun : s.ota.current = some { op := .identity copy, pos := pos }) (hpos : pos < 256) (hv : v = byteAt copy (pos % 64))
    (hcells : cells = { s.ota.cells with page0 := s.ota.cells.page0.set pos (byteAt s.ota.cells.page0 pos &&& (v ||| stuck)) })
    (hbad : byteAt cells.page0 pos ≠ v) (hota : ota = ({ s.ota with cells := cells, current := none } : Ota).judge)
    (hsame : ota.rootCount = s.ota.rootCount) :
    exec (.otaByteProgrammed stuck) s =
      .next (({ s with ota := ota } : State).reply .S .otpFault [byte (pos / 64), cells.lifecycle.code]).settle := by
  subst hv hota
  have hbyte := identity_byteAt (copy := copy) hpos
  have hprog : s.ota.cells.prog (.identity copy) pos (byteAt copy (pos % 64)) stuck = cells := hcells.symm
  rw [execOtaByteProgrammed_of_byte stuck hrun hbyte, byteProgrammed_bad stuck hbyte (by rw [hprog]; exact hbad)]
  have hend : (s.withByte (.identity copy) pos (byteAt copy (pos % 64)) stuck).bytesEnded (.identity copy) pos =
      (s.otaEnded cells).identityEnded pos := by
    unfold State.withByte
    rw [hprog]
    rfl
  rw [hend, identityEnded_same _ _ hsame, if_neg (by omega)]
  rfl

/-- The end of WRITE IDENTITY's operation at its last byte (R46). -/
theorem identity_last {s : State} {copy : Bytes} {v stuck : Byte} {cells : Cells} {ota : Ota} (hquiet : s.quiet = true)
    (hrun : s.ota.current = some { op := .identity copy, pos := 255 }) (hv : byteAt copy 63 = v)
    (hcells : cells = { s.ota.cells with page0 := s.ota.cells.page0.set 255 (byteAt s.ota.cells.page0 255 &&& (v ||| stuck)) })
    (hgood : byteAt cells.page0 255 = v) (hota : ota = ({ s.ota with cells := cells, current := none } : Ota).judge)
    (hsame : ota.rootCount = s.ota.rootCount) (hqueue : s.ota.queue = []) :
    exec (.otaByteProgrammed stuck) s =
      .next (({ s with ota := ota } : State).reply .S .ok [4#8, cells.lifecycle.code]) := by
  subst hv hota
  have hbyte : (OtaOp.identity copy).byteAt 255 = some (byteAt copy 63) := rfl
  have hprog : s.ota.cells.prog (.identity copy) 255 (byteAt copy 63) stuck = cells := hcells.symm
  rw [execOtaByteProgrammed_of_byte stuck hrun hbyte, byteProgrammed_good stuck hbyte (by rw [hprog]; exact hgood)]
  have hend : (s.withByte (.identity copy) 255 (byteAt copy 63) stuck).bytesEnded (.identity copy) (255 + 1) =
      (s.otaEnded cells).identityEnded 256 := by
    unfold State.withByte
    rw [hprog]
    rfl
  rw [if_neg (by simp [OtaOp.byteAt]), hend, identityEnded_same _ _ hsame]
  have hq := ended_quiet (ota := ({ s.ota with cells := cells, current := none } : Ota).judge) hquiet hqueue
  exact congrArg _ (settle_reply hq _ _ _)

/-! ### Bytes of the device keys -/

theorem complBytes_eq (a : Bytes) : complBytes a = a.map (~~~ ·) := by
  unfold complBytes
  congr 1
  funext b
  exact BitVec.xor_allOnes

theorem byteAt_append_left {a b : Bytes} {i : Nat} (h : i < a.length) : byteAt (a ++ b) i = byteAt a i := by
  unfold byteAt
  rw [List.getD_eq_getElem?_getD, List.getD_eq_getElem?_getD, List.getElem?_append_left h]

theorem byteAt_append_right {a b : Bytes} {i : Nat} (h : a.length ≤ i) : byteAt (a ++ b) i = byteAt b (i - a.length) := by
  unfold byteAt
  rw [List.getD_eq_getElem?_getD, List.getD_eq_getElem?_getD, List.getElem?_append_right h]

theorem byteAt_map_not {a : Bytes} {i : Nat} (h : i < a.length) : byteAt (a.map (~~~ ·)) i = ~~~ byteAt a i := by
  simp [byteAt, h]

/-- The device keys exist: the marker is there and the seed reads as its complement's complement (R39). -/
theorem keysExist_iff (c : Cells) : c.keysExist = true ↔ c.keysMarker ≠ 0xFF#8 ∧ c.seedCompl = c.seed.map (~~~ ·) := by
  simp [Cells.keysExist, Cells.markerPresent, Cells.seedCheck, complBytes_eq]

/-- What a byte of the device keys is, where it stands, and that it reads back wrong (R47). -/
theorem keys_bad_byte {s : State} {seed : Bytes} {pos : Nat} {v stuck : Byte} {cells : Cells} (hlen : seed.length = 32)
    (hcase : pos < 32 ∧ v = byteAt seed pos ∧ byteAt cells.seed pos ≠ v ∧
          cells = { s.ota.cells with seed := s.ota.cells.seed.set pos (byteAt s.ota.cells.seed pos &&& (v ||| stuck)) } ∨
        32 ≤ pos ∧ pos < 64 ∧ v = ~~~ byteAt seed (pos - 32) ∧ byteAt cells.seedCompl (pos - 32) ≠ v ∧
          cells = { s.ota.cells with
            seedCompl := s.ota.cells.seedCompl.set (pos - 32) (byteAt s.ota.cells.seedCompl (pos - 32) &&& (v ||| stuck)) } ∨
        pos = 64 ∧ cells.keysMarker ≠ 0#8 ∧ cells = { s.ota.cells with keysMarker := s.ota.cells.keysMarker &&& stuck }) :
    ∃ w, (OtaOp.keys seed).byteAt pos = some w ∧ s.ota.cells.prog (.keys seed) pos w stuck = cells ∧
      cells.target (.keys seed) pos ≠ w ∧ pos ≤ 64 := by
  obtain ⟨hpos, rfl, hbad, rfl⟩ | ⟨hlow, hpos, rfl, hbad, rfl⟩ | ⟨rfl, hbad, rfl⟩ := hcase
  · refine ⟨byteAt seed pos, ?_, if_pos hpos, ?_, by omega⟩
    · rw [show (OtaOp.keys seed).byteAt pos = some (byteAt (seed ++ complBytes seed) pos) from if_pos (by omega),
        byteAt_append_left (by omega)]
    · unfold Cells.target
      simpa only [if_pos hpos] using hbad
  · have hbyte : byteAt (seed ++ complBytes seed) pos = ~~~ byteAt seed (pos - 32) := by
      rw [byteAt_append_right (by omega), complBytes_eq, hlen, byteAt_map_not (by omega)]
    refine ⟨~~~ byteAt seed (pos - 32), ?_, ?_, ?_, by omega⟩
    · rw [show (OtaOp.keys seed).byteAt pos = some (byteAt (seed ++ complBytes seed) pos) from if_pos (by omega), hbyte]
    · unfold Cells.prog
      simp only [if_neg (Nat.not_lt.2 hlow), if_pos hpos]
      rfl
    · unfold Cells.target
      simpa only [if_neg (Nat.not_lt.2 hlow), if_pos hpos] using hbad
  · have hbyte : byteAt (seed ++ complBytes seed) 64 = 0#8 := by
      simp [byteAt, complBytes, hlen]
    refine ⟨0#8, ?_, ?_, hbad, Nat.le_refl _⟩
    · rw [show (OtaOp.keys seed).byteAt 64 = some (byteAt (seed ++ complBytes seed) 64) from rfl, hbyte]
    · show ({ s.ota.cells with keysMarker := s.ota.cells.keysMarker &&& (0#8 ||| stuck) } : Cells) = _
      rw [BitVec.zero_or]

/-- The two ends of GENERATE DEVICE KEYS' operation: the attestation key is claimed when the keys exist (R47). -/
theorem keys_ended {s : State} {seed : Bytes} {pos : Nat} {cells : Cells} {ota : Ota}
    (hota : ota = ({ s.ota with cells := cells, current := none } : Ota).judge) (hsame : ota.rootCount = s.ota.rootCount) :
    (ota.keysExist = true →
      (s.otaEnded cells).keysEnded seed pos =
        (({ s with ota := ota } : State).setWork .S (.keysAttest (if 65 ≤ pos then .ok else .otpFault))).fileClaim .S
          (.keygen (.attestation seed))) ∧
    (ota.keysExist = false →
      (s.otaEnded cells).keysEnded seed pos =
        ({ s with ota := ota } : State).reply .S .otpFault
          [byte (if pos < 64 then 1 else 2), 0#8, cells.lifecycle.code]) := by
  subst hota
  rw [keysEnded_same _ _ _ hsame]
  exact ⟨fun h => if_pos h, fun h => if_neg (Bool.eq_false_iff.1 h)⟩

/-! ### Bytes of a root entry -/

/-- What a byte of a root entry is, where it stands, and that it reads back wrong (R48). -/
theorem root_bad_byte {s : State} {e : Nat} {d : Bytes} {pos : Nat} {stuck : Byte} {r q : RootCells} {cells : Cells}
    (hentry : s.ota.cells.roots[e]? = some r)
    (hcase : pos < 32 ∧ q = { r with digest := r.digest.set pos (byteAt r.digest pos &&& (byteAt d pos ||| stuck)) } ∧
          byteAt q.digest pos ≠ byteAt d pos ∨
        pos = 32 ∧ q = { r with marker := r.marker &&& stuck } ∧ q.marker ≠ 0#8)
    (hcells : cells = { s.ota.cells with roots := s.ota.cells.roots.set e q }) :
    ∃ w, (OtaOp.root e d).byteAt pos = some w ∧ s.ota.cells.prog (.root e d) pos w stuck = cells ∧
      cells.target (.root e d) pos ≠ w ∧ pos ≤ 32 := by
  have hlt : e < s.ota.cells.roots.length := (List.getElem?_eq_some_iff.1 hentry).1
  have hread : cells.roots[e]? = some q := by rw [hcells]; simp [hlt]
  have hprog (w : Byte) (hq : r.prog pos w stuck = q) : s.ota.cells.prog (.root e d) pos w stuck = cells := by
    unfold Cells.prog
    dsimp only
    rw [modify_of_get _ hentry, hcells]
    exact congrArg (fun x => { s.ota.cells with roots := s.ota.cells.roots.set e x }) hq
  obtain ⟨hpos, hq, hbad⟩ | ⟨rfl, hq, hbad⟩ := hcase
  · refine ⟨byteAt d pos, if_pos hpos, hprog _ ?_, ?_, by omega⟩
    · exact (if_pos hpos).trans hq.symm
    · unfold Cells.target
      simpa only [hread, if_pos hpos] using hbad
  · refine ⟨0#8, rfl, hprog _ ?_, ?_, Nat.le_refl _⟩
    · rw [hq]
      exact (if_neg (Nat.lt_irrefl 32)).trans
        (congrArg (fun m => { r with marker := r.marker &&& m }) (BitVec.zero_or (x := stuck)))
    · unfold Cells.target
      simpa only [hread, if_neg (Nat.lt_irrefl 32)] using hbad

/-! ### Counter bits (R42) -/

theorem clearBit_false {w : Nat} (v : BitVec w) (i : Nat) : clearBit v i false = v := rfl

theorem clearBit_true_getLsbD {w : Nat} (v : BitVec w) (i : Nat) : (clearBit v i true).getLsbD i = false := by
  simp only [clearBit, if_true, BitVec.getLsbD_and, BitVec.getLsbD_not, BitVec.getLsbD_shiftLeft, Nat.lt_irrefl, decide_false,
    Nat.sub_self, BitVec.getLsbD_one]
  by_cases h : i < w
  · simp [h, Nat.zero_lt_of_lt h]
  · simp [h]

theorem counterBit_cleared (c : Cells) (k : Counter) (i : Nat) : (c.clearCounter k i true).counterBit k i = false := by
  cases k <;> exact clearBit_true_getLsbD _ _

theorem clearCounter_false (c : Cells) (k : Counter) (i : Nat) : c.clearCounter k i false = c := by
  cases k <;> rfl

theorem execCounterBitProgrammed_of_advance {s : State} {k : Counter} {target pos : Nat} {filer : AdvanceFor} (ok : Bool)
    (hrun : s.ota.current = some { op := .advance k target filer, pos := pos }) :
    exec (.counterBitProgrammed ok) s = .next (s.counterProgrammed k target filer pos ok).settle := by
  show execCounterBitProgrammed ok s = _
  unfold execCounterBitProgrammed
  rw [hrun]

/-- The RAM value rises to the bit number plus one, and the advance goes on or ends. -/
theorem counterProgrammed_cleared (s : State) (k : Counter) (target pos : Nat) (filer : AdvanceFor) :
    s.counterProgrammed k target filer pos true =
      if pos + 1 < min target k.top then
        { s with ota := { ({ s.ota with cells := s.ota.cells.clearCounter k pos true } : Ota).setValue k (pos + 1) with
                            current := some { op := .advance k target filer, pos := pos + 1 } } }
      else
        ({ s with ota := { ({ s.ota with cells := s.ota.cells.clearCounter k pos true } : Ota).setValue k (pos + 1) with
                             current := none } } : State).advanceEnded k filer .ok :=
  if_neg (Bool.eq_false_iff.1 (counterBit_cleared _ _ _))

theorem counterProgrammed_stuck (s : State) (k : Counter) (target pos : Nat) (filer : AdvanceFor)
    (hstuck : s.ota.cells.counterBit k pos = true) :
    s.counterProgrammed k target filer pos false =
      ({ s with ota := { s.ota with current := none } } : State).advanceEnded k filer .otpFault := by
  have hkept : (s.ota.cells.clearCounter k pos false).counterBit k pos = true := by rw [clearCounter_false]; exact hstuck
  refine (if_pos hkept).trans ?_
  rw [show s.mapOta (fun o => { o with cells := o.cells.clearCounter k pos false }) = s by
    unfold State.mapOta; simp only [clearCounter_false]]
  rfl

/-! ### Lock bits (R49) -/

theorem execLockBitProgrammed_of_seal {s : State} {pos : Nat} (ok : Bool)
    (hrun : s.ota.current = some { op := .seal, pos := pos }) :
    exec (.lockBitProgrammed ok) s = .next (s.lockProgrammed pos ok).settle := by
  show execLockBitProgrammed ok s = _
  unfold execLockBitProgrammed
  rw [hrun]

/-- The lock bit of a position reads set after it is programmed. -/
theorem locked_set (c : Cells) {pos : Nat} (h : pos ≤ 2) :
    ({ c with locks := c.locks ||| 1#5 <<< (2 - pos) } : Cells).locked (2 - pos) = true := by
  obtain rfl | rfl | rfl : pos = 0 ∨ pos = 1 ∨ pos = 2 := by omega
  all_goals simp [Cells.locked]

theorem lockProgrammed_set {s : State} {pos : Nat} {cells : Cells} (h : pos ≤ 2)
    (hcells : cells = { s.ota.cells with locks := s.ota.cells.locks ||| 1#5 <<< (2 - pos) }) :
    (∀ p, cells.nextLock (pos + 1) = some p →
      s.lockProgrammed pos true = { s with ota := { s.ota with cells := cells, current := some { op := .seal, pos := p } } }) ∧
    (cells.nextLock (pos + 1) = none → s.lockProgrammed pos true = (s.otaEnded cells).sealEnded none) := by
  subst hcells
  have hset := locked_set s.ota.cells h
  unfold State.lockProgrammed State.mapOta
  refine ⟨fun p hnext => ?_, fun hnext => ?_⟩
  · simp only [if_true, hset, hnext]
    rfl
  · simp only [if_true, hset, hnext]
    rfl

theorem lockProgrammed_unset {s : State} {pos : Nat} (hunset : s.ota.cells.locked (2 - pos) = false) :
    s.lockProgrammed pos false = (s.otaEnded s.ota.cells).sealEnded (some (2 - pos)) := by
  unfold State.lockProgrammed State.mapOta
  simp only [Bool.false_eq_true, if_false, hunset]
  rfl

/-! ### Retired-map bits (R43) -/

theorem execRetireBitProgrammed_of_retire {s : State} {b pos : Nat} (ok : Bool)
    (hrun : s.ota.current = some { op := .retire b, pos := pos }) :
    exec (.retireBitProgrammed ok) s = .next (s.retireProgrammed b ok).settle := by
  show execRetireBitProgrammed ok s = _
  unfold execRetireBitProgrammed
  rw [hrun]

theorem retireProgrammed_cleared (s : State) (b : Nat) :
    s.retireProgrammed b true =
      { s with ota := { s.ota with cells := { s.ota.cells with retired := s.ota.cells.retired &&& ~~~ (1#40 <<< b) },
                                   current := none },
               store := { s.store with markOut := false } } := by
  have hclear : (clearBit s.ota.cells.retired b true).getLsbD b = false := clearBit_true_getLsbD _ _
  unfold State.retireProgrammed State.mapOta State.retireEnded
  simp only [hclear, Bool.not_false, if_true]
  rfl

theorem retireProgrammed_stuck {s : State} {b : Nat} (hstuck : s.ota.cells.retired.getLsbD b = true) :
    s.retireProgrammed b false =
      ({ s with ota := { s.ota with current := none }, store := { s.store with markOut := false } } : State).recordFault
        .retireMarkFailed (some b) := by
  unfold State.retireProgrammed State.mapOta State.retireEnded
  simp only [clearBit_false, hstuck, Bool.not_true, Bool.false_eq_true, if_false]
  rfl

/-- Nothing is due in a quiet state with another fault record, no mark outstanding and no operation waiting. -/
theorem markBack_quiet {s : State} {ota : Ota} {fault : Option FaultRec} (hquiet : s.quiet = true) (hqueue : ota.queue = [])
    (hmarks : s.store.marksHeld = []) :
    ({ s with ota := ota, store := { s.store with markOut := false, fault := fault } } : State).quiet = true := by
  obtain ⟨hboot, hwait, hturn, -, -, hcheck, hgrant, hcompact⟩ := (State.quiet_iff_parts s).1 hquiet
  exact (State.quiet_iff_parts _).2 ⟨hboot, hwait, hturn, .inl hmarks, .inr hqueue, hcheck, hgrant, hcompact⟩

/-- Raising an event leaves a quiet state quiet. -/
@[simp] theorem State.raise_quiet (s : State) (ch : Chan) (e : Event) : (s.raise ch e).quiet = s.quiet := by
  apply State.quiet_congr <;> cases ch <;> rfl

theorem recordFault_quiet {s : State} (k : FaultKind) (b : Option Nat) (hquiet : s.quiet = true) :
    (s.recordFault k b).quiet = true := by
  rw [recordFault_eq, State.raise_quiet, State.raise_quiet]
  obtain ⟨hboot, hwait, hturn, hmark, hota, hcheck, hgrant, hcompact⟩ := (State.quiet_iff_parts s).1 hquiet
  exact (State.quiet_iff_parts _).2 ⟨hboot, hwait, hturn, hmark, hota, hcheck, hgrant, hcompact⟩

/-- Settles O27: what a programmed byte, counter bit, lock bit and retired-map bit leave, one case for each kind of step. -/
theorem oneTimeProgrammingSteps : Obligations.OneTimeProgrammingSteps := by
  intro s hquiet
  refine ⟨?nextByte, ?badByte, ?identityBad, ?keysBad, ?rootBad, ?identityLast, ?counterOn, ?keysLast, ?rootLast, ?counterLast,
    ?counterStuck, ?lockOn, ?lockLast, ?lockUnset, ?mark⟩
  case nextByte =>
    intro op pos v next stuck hrun hbyte hgood hnext
    rw [execOtaByteProgrammed_of_byte stuck hrun hbyte, byteProgrammed_good stuck hbyte hgood, if_pos (by simp [hnext])]
    exact congrArg _ (State.settle_quiet _ (ota_quiet (s := s) _ hquiet (.inl rfl)))
  case badByte =>
    rintro op pos v stuck u hrun hbyte hbad rfl
    rw [execOtaByteProgrammed_of_byte stuck hrun hbyte, byteProgrammed_bad stuck hbyte hbad]
    rfl
  case identityBad =>
    exact fun copy pos v stuck cells ota hrun hpos hv hcells hbad hota hsame =>
      identity_bad hrun hpos hv hcells hbad hota hsame
  case keysBad =>
    intro seed pos v stuck cells ota present hrun hlen hcase hota hsame hpresent
    obtain ⟨w, hbyte, hprog, hbad, hpos⟩ := keys_bad_byte hlen hcase
    have hexec : exec (.otaByteProgrammed stuck) s = .next ((s.otaEnded cells).keysEnded seed pos).settle := by
      rw [execOtaByteProgrammed_of_byte stuck hrun hbyte, byteProgrammed_bad stuck hbyte (by rw [hprog]; exact hbad)]
      unfold State.withByte
      rw [hprog]
      rfl
    have hexist : ota.keysExist = true ↔ present := by rw [hpresent, ← keysExist_iff, hota]; rfl
    obtain ⟨hyes, hno⟩ := keys_ended (seed := seed) (pos := pos) hota hsame
    rw [hexec]
    refine ⟨fun h => ?_, fun h => ?_⟩
    · rw [hyes (hexist.2 h), if_neg (by omega)]
    · rw [hno (Bool.eq_false_iff.2 fun h' => h (hexist.1 h'))]
      have hpart : byte (if pos < 64 then 1 else 2) = if pos < 64 then 1#8 else 2#8 := by split <;> rfl
      rw [hpart]
  case rootBad =>
    intro e d pos stuck r q cells ota told body hrun hentry hcase hcells hota htold hbody
    obtain ⟨w, hbyte, hprog, hbad, hpos⟩ := root_bad_byte hentry hcase hcells
    have hexec : exec (.otaByteProgrammed stuck) s = .next ((s.otaEnded cells).rootEnded e d pos).settle := by
      rw [execOtaByteProgrammed_of_byte stuck hrun hbyte, byteProgrammed_bad stuck hbyte (by rw [hprog]; exact hbad)]
      unfold State.withByte
      rw [hprog]
      rfl
    have hpart : byte (if pos < 32 then 1 else 2) = if pos < 32 then 1#8 else 2#8 := by split <;> rfl
    subst hota hbody
    rw [hexec]
    refine ⟨fun h => ?_, fun h => ?_⟩
    · rw [rootEnded_untold _ e d pos fun h' => h (htold.2 h'), if_neg (by omega), hpart]
      rfl
    · rw [rootEnded_told _ e d pos (htold.1 h), if_neg (by omega), hpart]
      rfl
  case identityLast =>
    exact fun copy v stuck cells ota hrun hv hcells hgood hota hsame hqueue =>
      identity_last hquiet hrun hv hcells hgood hota hsame hqueue
  case counterOn =>
    intro k target filer pos hrun hmore
    rw [execCounterBitProgrammed_of_advance true hrun, counterProgrammed_cleared, if_pos hmore]
    exact congrArg _ (State.settle_quiet _ (ota_quiet (s := s) _ hquiet (.inl rfl)))
  case keysLast =>
    intro seed stuck cells ota hrun hlen hclear hcells hota hsame
    have hbyte : (OtaOp.keys seed).byteAt 64 = some 0#8 := by simp [OtaOp.byteAt, byteAt, complBytes, hlen]
    have hprog : s.ota.cells.prog (.keys seed) 64 0#8 stuck = cells := by
      have hmarker : progByte s.ota.cells.keysMarker 0#8 stuck = 0#8 := by
        unfold progByte
        rw [BitVec.zero_or, hclear]
      rw [hcells]
      exact congrArg (fun m => { s.ota.cells with keysMarker := m }) hmarker
    have hexec : exec (.otaByteProgrammed stuck) s = .next ((s.otaEnded cells).keysEnded seed 65).settle := by
      rw [execOtaByteProgrammed_of_byte stuck hrun hbyte,
        byteProgrammed_good stuck hbyte (by rw [hprog, hcells]; rfl), if_neg (by simp [OtaOp.byteAt])]
      unfold State.withByte
      rw [hprog]
      rfl
    obtain ⟨hyes, hno⟩ := keys_ended (seed := seed) (pos := 65) hota hsame
    rw [hexec]
    exact ⟨fun h => by rw [hyes h, if_pos (Nat.le_refl 65)], fun h => by rw [hno h]; rfl⟩
  case rootLast =>
    intro e d stuck r cells ota hrun hentry hclear hcells hota
    have hbyte : (OtaOp.root e d).byteAt 32 = some 0#8 := rfl
    have hlt : e < s.ota.cells.roots.length := (List.getElem?_eq_some_iff.1 hentry).1
    have hmarker : r.prog 32 0#8 stuck = { r with marker := 0#8 } := by
      unfold RootCells.prog progByte
      rw [if_neg (Nat.lt_irrefl 32), BitVec.zero_or, hclear]
    have hprog : s.ota.cells.prog (.root e d) 32 0#8 stuck = cells := by
      unfold Cells.prog
      dsimp only
      rw [modify_of_get _ hentry, hcells]
      exact congrArg (fun x => { s.ota.cells with roots := s.ota.cells.roots.set e x }) hmarker
    have hgood : cells.target (.root e d) 32 = 0#8 := by
      unfold Cells.target
      rw [hcells]
      simp [hlt]
    have hexec : exec (.otaByteProgrammed stuck) s = .next ((s.otaEnded cells).rootEnded e d 33).settle := by
      rw [execOtaByteProgrammed_of_byte stuck hrun hbyte, byteProgrammed_good stuck hbyte (by rw [hprog]; exact hgood),
        if_neg (by simp [OtaOp.byteAt])]
      unfold State.withByte
      rw [hprog]
      rfl
    subst hota
    rw [hexec]
    refine ⟨fun h => ?_, fun hchanged hroots hstage hlife => ?_⟩
    · have huntold : ¬ ((s.otaEnded cells).ota.judge.rootCount ≠ (s.otaEnded cells).ota.rootCount ∧
          0 < (s.otaEnded cells).ota.judge.rootCount ∧ (s.otaEnded cells).boot.stage = .waiting ∧
          (s.otaEnded cells).ota.judge.lifecycle ≠ .failed) := by
        rintro ⟨h1, -, h3, h4⟩
        obtain h | h | h := h
        · exact h1 h
        · exact h h3
        · exact h4 h
      rw [rootEnded_untold _ e d 33 huntold]
      rfl
    · rw [rootEnded_told (s.otaEnded cells) e d 33 ⟨hchanged, hroots, hstage, hlife⟩]
      rfl
  case counterLast =>
    rintro k target filer pos ota hrun hlast rfl
    rw [execCounterBitProgrammed_of_advance true hrun, counterProgrammed_cleared, if_neg (by omega)]
  case counterStuck =>
    intro k target filer pos hrun hstuck
    rw [execCounterBitProgrammed_of_advance false hrun, counterProgrammed_stuck s k target pos filer hstuck]
  case lockOn =>
    intro pos p cells hrun hpos hcells hnext
    rw [execLockBitProgrammed_of_seal true hrun, (lockProgrammed_set hpos hcells).1 p hnext]
    exact congrArg _ (State.settle_quiet _ (ota_quiet (s := s) _ hquiet (.inl rfl)))
  case lockLast =>
    intro pos cells ota hrun hpos hcells hnext hota hsame hqueue
    subst hota
    have hq := ended_quiet (ota := ({ s.ota with cells := cells, current := none } : Ota).judge) hquiet hqueue
    rw [execLockBitProgrammed_of_seal true hrun, (lockProgrammed_set hpos hcells).2 hnext, sealEnded_same _ _ hsame]
    exact congrArg _ (settle_reply hq _ _ _)
  case lockUnset =>
    intro pos ota hrun hpos hunset hota hsame hqueue
    subst hota
    have hq := ended_quiet (ota := ({ s.ota with current := none } : Ota).judge) hquiet hqueue
    rw [execLockBitProgrammed_of_seal false hrun, lockProgrammed_unset hunset,
      sealEnded_same (s.otaEnded s.ota.cells) _ hsame]
    exact congrArg _ (settle_reply hq _ _ _)
  case mark =>
    intro b pos hrun hqueue hmarks
    constructor
    · rw [execRetireBitProgrammed_of_retire true hrun, retireProgrammed_cleared]
      exact congrArg _ (State.settle_quiet _ (markBack_quiet (fault := s.store.fault) hquiet hqueue hmarks))
    · intro hstuck
      rw [execRetireBitProgrammed_of_retire false hrun, retireProgrammed_stuck hstuck]
      have hq := markBack_quiet (s := s) (ota := { s.ota with current := none }) (fault := s.store.fault) hquiet hqueue hmarks
      exact congrArg _ (State.settle_quiet _ (recordFault_quiet _ _ hq))

end Sys2Proof.Machine

/-! The layouts of the argument bodies (O28): each parser reads what a host lays out and asks that nothing follows it. -/
namespace Sys2Proof.Machine

/-! ### Parts of a body -/

theorem takeByte_cons (b : Byte) (rest : Bytes) : takeByte (b :: rest) = some (b, rest) := rfl

theorem takeHandle_good {n ep : Byte} (rest : Bytes) (h : n.toNat ≤ 11) :
    takeHandle (n :: ep :: rest) = some ({ entry := n.toNat, epoch := ep }, rest) := if_pos h

theorem takeOptional_none (n : Nat) (rest : Bytes) : takeOptional n (0#8 :: rest) = some (none, rest) := rfl

theorem takeOptional_some {n : Nat} {v : Bytes} (rest : Bytes) (h : v.length = n) :
    takeOptional n (1#8 :: (v ++ rest)) = some (some v, rest) := by
  simp [takeOptional, takeBytes_append v rest n h]

/-- A body that ends where its fields end has its value, and none with a byte more. -/
theorem layout_ends {α : Type} {parse : Bytes → Option α} {body : Bytes} {x : α}
    (h : ∀ rest, parse (body ++ rest) = atEnd x rest) (more : Byte) : parse body = some x ∧ parse (body ++ [more]) = none := by
  refine ⟨?_, h [more]⟩
  have := h []
  rwa [List.append_nil] at this

/-- A part of a body that is read as laid out goes to what reads the rest. -/
theorem bind_of_some {α β : Type} {o : Option α} {x : α} (h : o = some x) (f : α → Option β) : o.bind f = f x := by
  rw [h]; rfl

/-! ### The parsers over their layouts -/

/-- What the parser of WRITE SLOT reads after the binding: label, payload and expected generation. -/
theorem slotArgs_tail (slot flags mask : Byte) (k : Kind) (d : Domain) (needs : Bool) (comp label payload : Bytes)
    (g : Option Word) (hlabel : label.length < 256) (hpayload : payload.length < 256) (rest : Bytes) :
    (do
      let (label, b) ← takeString
        (byte label.length :: (label ++ (byte payload.length :: (payload ++ (optBytes (g.map fun x => be 4 x.toNat) ++ rest)))))
      let (payload, b) ← takeString b
      let (gen, b) ← takeOptional 4 b
      let kind ← Kind.ofCode k.code
      let dom ← Domain.ofCode d.code
      atEnd { slot := slot.toNat,
              r := { kind := kind, domain := some dom, flags := flags, needsOwner := needs, mask := mask, composite := comp,
                     label := label, payload := payload },
              expected := optWord gen : SlotArgs } b) =
      atEnd { slot := slot.toNat,
              r := { kind := k, domain := some d, flags := flags, needsOwner := needs, mask := mask, composite := comp,
                     label := label, payload := payload }, expected := g } rest := by
  refine (bind_of_some (takeString_append label _ hlabel) _).trans ?_
  refine (bind_of_some (takeString_append payload _ hpayload) _).trans ?_
  refine (bind_of_some (takeOptional_optBytes g rest) _).trans ?_
  refine (bind_of_some (kindOfCode_code k) _).trans ?_
  refine (bind_of_some (domainOfCode_code d) _).trans ?_
  rw [optWord_map]

theorem parseSlotArgs_layout (slot flags mask : Byte) (k : Kind) (d : Domain) (needs : Bool) (comp label payload : Bytes)
    (g : Option Word) (hcomp : comp.length = 32) (hzero : mask = 0#8 → comp = List.replicate 32 0#8)
    (hlabel : label.length < 256) (hpayload : payload.length < 256) (rest : Bytes) :
    parseSlotArgs (([slot, k.code, d.code, flags, flagByte needs, mask] ++ (if mask = 0#8 then [] else comp)
      ++ [byte label.length] ++ label ++ [byte payload.length] ++ payload ++ optBytes (g.map fun x => be 4 x.toNat)) ++ rest) =
      atEnd { slot := slot.toNat,
              r := { kind := k, domain := some d, flags := flags, needsOwner := needs, mask := mask, composite := comp,
                     label := label, payload := payload }, expected := g } rest := by
  have hbody : ([slot, k.code, d.code, flags, flagByte needs, mask] ++ (if mask = 0#8 then [] else comp)
      ++ [byte label.length] ++ label ++ [byte payload.length] ++ payload ++ optBytes (g.map fun x => be 4 x.toNat)) ++ rest =
      slot :: k.code :: d.code :: flags :: flagByte needs :: mask :: ((if mask = 0#8 then [] else comp) ++
        (byte label.length :: (label ++ (byte payload.length :: (payload ++ (optBytes (g.map fun x => be 4 x.toNat) ++ rest)))))) := by
    simp
  have hunbound (tail : Bytes) (hmask : mask = 0#8) :
      some (zeros32, (if mask = 0#8 then [] else comp) ++ tail) = some (comp, tail) := by
    rw [if_pos hmask, hzero hmask]
    rfl
  have hbound (tail : Bytes) (hmask : ¬ mask = 0#8) :
      takeBytes 32 ((if mask = 0#8 then [] else comp) ++ tail) = some (comp, tail) := by
    rw [if_neg hmask, takeBytes_append comp tail 32 hcomp]
  rw [hbody]
  unfold parseSlotArgs
  refine (bind_of_some (takeByte_cons slot _) _).trans ?_
  refine (bind_of_some (takeByte_cons k.code _) _).trans ?_
  refine (bind_of_some (takeByte_cons d.code _) _).trans ?_
  refine (bind_of_some (takeByte_cons flags _) _).trans ?_
  refine (bind_of_some (takeFlag_flag needs _) _).trans ?_
  refine (bind_of_some (takeByte_cons mask _) _).trans ?_
  by_cases hmask : mask = 0#8
  · refine (if_pos hmask).trans ((bind_of_some (hunbound _ hmask) _).trans ?_)
    exact slotArgs_tail slot flags mask k d needs comp label payload g hlabel hpayload rest
  · refine (if_neg hmask).trans ((bind_of_some (hbound _ hmask) _).trans ?_)
    exact slotArgs_tail slot flags mask k d needs comp label payload g hlabel hpayload rest

/-- The nine bytes of given parameters (R100). -/
def paramBytes (F B L : Byte) (C : Word) (P : BitVec 16) : Bytes := [F, B] ++ be 4 C.toNat ++ [L] ++ be 2 P.toNat

theorem paramsOf_paramBytes (F B L : Byte) (C : Word) (P : BitVec 16) :
    paramsOf (paramBytes F B L C P) = { F := F.toNat, B := B.toNat, C := C.toNat, L := L.toNat, P := P.toNat } := by
  have hC : slice (paramBytes F B L C P) 2 4 = be 4 C.toNat := rfl
  have hP : slice (paramBytes F B L C P) 7 2 = be 2 P.toNat := rfl
  unfold paramsOf
  rw [hC, hP, be4_nat, be2_nat]
  rfl

theorem parseSetVerifier_given (slot : Byte) (pw : Bytes) (F B L : Byte) (C : Word) (P : BitVec 16) (g : Option Word)
    (hlow : 1 ≤ pw.length) (hhigh : pw.length ≤ 64) (rest : Bytes) :
    parseSetVerifier (([slot, byte pw.length] ++ pw ++ [1#8, F, B] ++ be 4 C.toNat ++ [L] ++ be 2 P.toNat
      ++ optBytes (g.map fun x => be 4 x.toNat)) ++ rest) =
      atEnd { slot := slot.toNat, password := pw, expected := g,
              params := Params.clamped { F := F.toNat, B := B.toNat, C := C.toNat, L := L.toNat, P := P.toNat } } rest := by
  have hbody : ([slot, byte pw.length] ++ pw ++ [1#8, F, B] ++ be 4 C.toNat ++ [L] ++ be 2 P.toNat
      ++ optBytes (g.map fun x => be 4 x.toNat)) ++ rest =
      slot :: byte pw.length :: (pw ++ (1#8 :: (paramBytes F B L C P ++ (optBytes (g.map fun x => be 4 x.toNat) ++ rest)))) := by
    simp [paramBytes]
  have hnine : (paramBytes F B L C P).length = 9 := rfl
  rw [hbody]
  simp only [parseSetVerifier, takeByte_cons, takeString_append pw _ (by omega), takeOptional_some _ hnine,
    takeOptional_optBytes, optWord_map, Option.bind_eq_bind, Option.bind_some, hlow, hhigh, and_self, if_true,
    paramsOf_paramBytes]

theorem parseSetVerifier_default (slot : Byte) (pw : Bytes) (g : Option Word) (hlow : 1 ≤ pw.length) (hhigh : pw.length ≤ 64)
    (rest : Bytes) :
    parseSetVerifier (([slot, byte pw.length] ++ pw ++ [0#8] ++ optBytes (g.map fun x => be 4 x.toNat)) ++ rest) =
      atEnd { slot := slot.toNat, password := pw, expected := g, params := { F := 5, B := 2, C := 3600, L := 20, P := 30 } }
        rest := by
  simp only [List.cons_append, List.nil_append, List.append_assoc, parseSetVerifier, takeByte_cons,
    takeString_append pw _ (show pw.length < 256 by omega), takeOptional_none, takeOptional_optBytes, optWord_map,
    Option.bind_eq_bind, Option.bind_some, hlow, hhigh, and_self, if_true, Params.defaults]

theorem parseDeleteSlot_layout (slot : Byte) (g : Option Word) (rest : Bytes) :
    parseDeleteSlot ((slot :: optBytes (g.map fun x => be 4 x.toNat)) ++ rest) = atEnd (slot.toNat, g) rest := by
  simp only [List.cons_append, parseDeleteSlot, takeByte_cons, takeOptional_optBytes, optWord_map, Option.bind_eq_bind,
    Option.bind_some]

theorem parseVerifyOwner_layout (slot : Byte) (cand : Bytes) (hlow : 1 ≤ cand.length) (hhigh : cand.length ≤ 64)
    (rest : Bytes) :
    parseVerifyOwner (([slot, byte cand.length] ++ cand) ++ rest) = atEnd (slot.toNat, cand) rest := by
  simp only [List.cons_append, List.nil_append, parseVerifyOwner, takeByte_cons,
    takeString_append cand _ (show cand.length < 256 by omega), Option.bind_eq_bind, Option.bind_some, hlow, hhigh, and_self,
    if_true]

theorem parseSign_layout (n ep : Byte) (digest : Bytes) (hin : n.toNat ≤ 11) (hlen : digest.length = 32) (rest : Bytes) :
    parseSign (([n, ep] ++ digest) ++ rest) = atEnd ({ entry := n.toNat, epoch := ep }, digest) rest := by
  simp only [List.cons_append, List.nil_append, parseSign, takeHandle_good _ hin, takeBytes_append _ _ _ hlen,
    Option.bind_eq_bind, Option.bind_some]

theorem parseDerive_layout (n ep : Byte) (info : Bytes) (hin : n.toNat ≤ 11) (hlen : info.length ≤ 64) (rest : Bytes) :
    parseDerive (([n, ep, byte info.length] ++ info) ++ rest) = atEnd ({ entry := n.toNat, epoch := ep }, info) rest := by
  simp only [List.cons_append, List.nil_append, parseDerive, takeHandle_good _ hin,
    takeString_append info _ (show info.length < 256 by omega), Option.bind_eq_bind, Option.bind_some, hlen, if_true]

theorem parseExtend_layout (lane : Byte) (digest label : Bytes) (hlane : lane.toNat ≤ 7) (hdigest : digest.length = 32)
    (hlabel : label.length ≤ 16) (rest : Bytes) :
    parseExtend (([lane] ++ digest ++ [byte label.length] ++ label) ++ rest) =
      atEnd { lane := lane.toNat, digest := digest, label := label } rest := by
  simp only [List.cons_append, List.nil_append, List.append_assoc, parseExtend, takeByte_cons, takeBytes_append _ _ _ hdigest,
    takeString_append label _ (show label.length < 256 by omega), Option.bind_eq_bind, Option.bind_some, hlane, hlabel, and_self,
    if_true]

theorem parseQuote_layout (nonce : Bytes) (mask : Byte) (hlow : 8 ≤ nonce.length) (hhigh : nonce.length ≤ 32) (rest : Bytes) :
    parseQuote (([byte nonce.length] ++ nonce ++ [mask]) ++ rest) = atEnd (nonce, mask) rest := by
  simp only [List.cons_append, List.nil_append, List.append_assoc, parseQuote, takeByte_cons,
    takeString_append nonce _ (show nonce.length < 256 by omega), Option.bind_eq_bind, Option.bind_some, hlow, hhigh, and_self,
    if_true]

/-- Settles O28: the parsers over their layouts, each at the body's end and with a byte more; and the clamping in its order. -/
theorem argumentLayouts : Obligations.ArgumentLayouts := by
  refine ⟨?_, ?_, ?_, ?_, ?_, ?_, ?_, ?_, ?_⟩
  · rintro slot flags mask k d needs comp label payload g more body hcomp hzero hlabel hpayload rfl
    exact layout_ends (parseSlotArgs_layout slot flags mask k d needs comp label payload g hcomp hzero hlabel hpayload) more
  · rintro slot pw F B L C P g more body hlow hhigh rfl
    exact layout_ends (parseSetVerifier_given slot pw F B L C P g hlow hhigh) more
  · rintro slot pw g more body hlow hhigh rfl
    exact layout_ends (parseSetVerifier_default slot pw g hlow hhigh) more
  · rintro p F B rfl rfl
    simp [Params.clamped, clamp]
  · rintro slot more g body rfl
    exact layout_ends (parseDeleteSlot_layout slot g) more
  · rintro slot more cand body hlow hhigh rfl
    exact layout_ends (parseVerifyOwner_layout slot cand hlow hhigh) more
  · rintro n ep more digest info body h hin rfl
    refine ⟨?_, ?_⟩
    · rintro hlen rfl
      exact layout_ends (parseSign_layout n ep digest hin hlen) more
    · rintro hlen rfl
      exact layout_ends (parseDerive_layout n ep info hin hlen) more
  · rintro lane digest label more body hlane hdigest hlabel rfl
    exact layout_ends (parseExtend_layout lane digest label hlane hdigest hlabel) more
  · rintro nonce mask more body hlow hhigh rfl
    exact layout_ends (parseQuote_layout nonce mask hlow hhigh) more

end Sys2Proof.Machine

/-! WRITE SLOT, GENERATE KEY and DELETE SLOT (O29). -/
namespace Sys2Proof.Machine

/-! ### A filed job that ends at its take -/

/-- A job that fails one of the checks of R63 ends with its outcome at its filer. -/
theorem fileJob_failed {t u : State} {j : WriteJob} {o : JobEnd} (hquiet : t.quiet = true) (hidle : t.store.idle = true)
    (hcheck : t.store.takeCheck t.guard j = some o) (hdeliver : t.deliver j o = u) (hu : u.quiet = true) :
    (t.fileJob j).settle = u :=
  State.settle_job_ends t (t.tookJob j) u j o hquiet hidle (takeJob_failed hcheck)
    ((tookJob_endJob j hidle o).trans hdeliver) hu

/-- A job that passes those checks and fails a judgment ends with its outcome at its filer. -/
theorem fileJob_judged {t t' u : State} {j : WriteJob} {o : JobEnd} (hquiet : t.quiet = true) (hidle : t.store.idle = true)
    (hcheck : t.store.takeCheck t.guard j = none) (hjudge : (t.tookJob j).judgeTake j = (some o, t'.tookJob j))
    (hidle' : t'.store.idle = true) (hdeliver : t'.deliver j o = u) (hu : u.quiet = true) : (t.fileJob j).settle = u := by
  refine State.settle_job_ends t (t'.tookJob j) u j o hquiet hidle ?_ ((tookJob_endJob j hidle' o).trans hdeliver) hu
  rw [State.takeJob_idle, hcheck, hjudge]

/-- The outcome of a slot job goes to its channel as a reply. -/
theorem deliver_slotJob {s : State} {j : WriteJob} {ch : Chan} (o : JobEnd) (hlive : j.orphan = false) (hchan : j.chan = some ch)
    (hfiler : j.filer = .writeSlot ∨ j.filer = .deleteSlot) : s.deliver j o = s.replyJob ch o [] := by
  unfold State.deliver
  obtain h | h := hfiler <;> simp [h, hlive, hchan]

theorem takeCheck_mismatch {st : Store} {g : Guard} {j : WriteJob} {x : Word} (hidle : st.idle = true)
    (hexpected : j.expected = some x) (hother : x ≠ st.gen j.slot) :
    st.takeCheck g j = some (.withGen .generationMismatch (st.gen j.slot)) := by
  obtain ⟨-, -, -, -, -, hdegraded⟩ := (Store.idle_iff _).1 hidle
  have hdiffers : (j.expected.any fun y => y != st.gen j.slot) = true := by simp [hexpected, hother]
  unfold Store.takeCheck
  rw [hdegraded, hdiffers]
  rfl

theorem takeCheck_guarded {st : Store} {g : Guard} {j : WriteJob} (hidle : st.idle = true)
    (hexpected : j.expected = none ∨ j.expected = some (st.gen j.slot)) (hwriter : j.writer = .channelRequest)
    (huser : userSlot j.slot = true) (hshut : g.allows j.slot = false) : st.takeCheck g j = some (.fail .guarded) := by
  obtain ⟨-, -, -, -, -, hdegraded⟩ := (Store.idle_iff _).1 hidle
  have hsame : (j.expected.any fun x => x != st.gen j.slot) = false := by
    obtain h | h := hexpected <;> simp [h]
  unfold Store.takeCheck
  have hclosed : j.writer = .channelRequest ∧ userSlot j.slot = true ∧ g.allows j.slot = false := ⟨hwriter, huser, hshut⟩
  rw [hdegraded, hsame, if_pos hclosed]
  rfl

/-! ### The state in which a slot request waits -/

/-- The state in which a slot request waits for its job, its judgments made. -/
def State.awaits (s : State) (ch : Chan) (w : Work) (needed : Bool) : State := (s.afterUse needed).setWork ch w

section Awaits
variable (s : State) (ch : Chan) (w : Work) (needed : Bool)

@[simp] theorem awaits_quiet : (s.awaits ch w needed).quiet = s.quiet := by simp [State.awaits]
@[simp] theorem awaits_store : (s.awaits ch w needed).store = s.store := by simp [State.awaits]
@[simp] theorem awaits_guard : (s.awaits ch w needed).guard = s.guard := by simp [State.awaits]
@[simp] theorem awaits_engine : (s.awaits ch w needed).engine = s.engine := by simp [State.awaits]

theorem awaits_reply (st : Status) (body : Bytes) :
    (s.awaits ch w needed).reply ch st body = (s.afterUse needed).reply ch st body := State.setWork_reply _ _ _ _ _

/-- A further judgment that needs the grant is one with those before it. -/
theorem awaits_afterUse (more : Bool) : (s.awaits ch w needed).afterUse more = s.awaits ch w (needed || more) := by
  unfold State.awaits
  rw [setWork_afterUse, afterUse_afterUse, ← setWork_afterUse]

/-- The judgment of a write right at a take is that of the state before the request. -/
theorem took_judgeWrite_true (j : WriteJob) (d : Option Domain) (h : s.mayWrite ch d = true) :
    ((s.awaits ch w needed).tookJob j).judgeWrite ch d =
      (true, (s.awaits ch w (needed || grantNeeded d)).tookJob j) := by
  have hmay : ((s.awaits ch w needed).tookJob j).mayWrite ch d = true := by
    rw [tookJob_mayWrite]
    unfold State.awaits
    rw [setWork_mayWrite, afterUse_mayWrite, h]
  rw [judgeWrite_true _ _ _ hmay, tookJob_afterUse, awaits_afterUse]

theorem took_judgeWrite_false (j : WriteJob) (d : Option Domain) (h : s.mayWrite ch d = false) :
    ((s.awaits ch w needed).tookJob j).judgeWrite ch d = (false, (s.awaits ch w needed).tookJob j) := by
  refine judgeWrite_false _ _ _ ?_
  rw [tookJob_mayWrite]
  unfold State.awaits
  rw [setWork_mayWrite, afterUse_mayWrite, h]

end Awaits

/-! ### The judgments at the take (R84) -/

section WriteTake
variable {s : State} {ch : Chan} {w : Work} {j : WriteJob}

theorem took_keptRec (needed : Bool) (n : Nat) : ((s.awaits ch w needed).tookJob j).store.keptRec n = s.store.keptRec n :=
  (tookJob_keptRec _ _ _).trans (by simp)

/-- WRITE SLOT's judgments up to the overwrite check. -/
theorem judgeTake_write (hfiler : j.filer = .writeSlot) (hchan : j.chan = some ch)
    (hright : s.mayWrite ch j.record.domain = true) :
    ((s.awaits ch w (grantNeeded j.record.domain)).tookJob j).judgeTake j =
      if (s.store.keptRec j.slot).any (·.kind == .verifier) then
        (some (.fail .slotKind), (s.awaits ch w (grantNeeded j.record.domain)).tookJob j)
      else ((s.awaits ch w (grantNeeded j.record.domain)).tookJob j).judgeOver ch j.slot := by
  have hjudge := took_judgeWrite_true s ch w (grantNeeded j.record.domain) j _ hright
  rw [Bool.or_self] at hjudge
  rw [judgeTake_writeSlot _ _ _ hfiler hchan, judgeTakeWrite_granted _ _ _ _ hjudge, took_keptRec]

theorem judgeTake_write_verifier (hfiler : j.filer = .writeSlot) (hchan : j.chan = some ch)
    (hright : s.mayWrite ch j.record.domain = true) {r : Rec} (hkept : s.store.keptRec j.slot = some r)
    (hkind : r.kind = .verifier) :
    ((s.awaits ch w (grantNeeded j.record.domain)).tookJob j).judgeTake j =
      (some (.fail .slotKind), (s.awaits ch w (grantNeeded j.record.domain)).tookJob j) := by
  rw [judgeTake_write hfiler hchan hright, hkept]
  exact if_pos (by simp [hkind])

theorem judgeTake_write_denied (hfiler : j.filer = .writeSlot) (hchan : j.chan = some ch)
    (hright : s.mayWrite ch j.record.domain = true) {r : Rec} (hkept : s.store.keptRec j.slot = some r)
    (hkind : r.kind ≠ .verifier) (hover : s.mayWrite ch r.domain = false) :
    ((s.awaits ch w (grantNeeded j.record.domain)).tookJob j).judgeTake j =
      (some (.fail .notPermitted), (s.awaits ch w (grantNeeded j.record.domain)).tookJob j) := by
  rw [judgeTake_write hfiler hchan hright, hkept, if_neg (by simp [hkind])]
  unfold State.judgeOver
  rw [took_keptRec, hkept]
  simp only [took_judgeWrite_false s ch w _ j _ hover]
  rfl

/-- WRITE SLOT's judgments pass over a slot with no record, and over a record that the channel may write. -/
theorem judgeTake_write_passes (hfiler : j.filer = .writeSlot) (hchan : j.chan = some ch)
    (hright : s.mayWrite ch j.record.domain = true) {needed : Bool}
    (hover : s.store.keptRec j.slot = none ∧ needed = grantNeeded j.record.domain ∨
      ∃ r, s.store.keptRec j.slot = some r ∧ r.kind ≠ .verifier ∧ s.mayWrite ch r.domain = true ∧
        needed = (grantNeeded j.record.domain || grantNeeded r.domain)) :
    ((s.awaits ch w (grantNeeded j.record.domain)).tookJob j).judgeTake j = (none, (s.awaits ch w needed).tookJob j) := by
  rw [judgeTake_write hfiler hchan hright]
  obtain ⟨hkept, rfl⟩ | ⟨r, hkept, hkind, hmay, rfl⟩ := hover
  · rw [hkept]
    unfold State.judgeOver
    rw [took_keptRec, hkept]
    rfl
  · rw [hkept, if_neg (by simp [hkind])]
    unfold State.judgeOver
    rw [took_keptRec, hkept]
    simp only [took_judgeWrite_true s ch w _ j _ hmay]
    rfl

/-- DELETE SLOT's judgment passes over a record that the channel may delete. -/
theorem judgeTake_delete_passes (hfiler : j.filer = .deleteSlot) (hchan : j.chan = some ch) {r : Rec} {d : Option Domain}
    (hkept : s.store.keptRec j.slot = some r) (hd : d = if r.kind = .verifier then some .owner else r.domain)
    (hmay : s.mayWrite ch d = true) :
    ((s.awaits ch w (grantNeeded d)).tookJob j).judgeTake j = (none, (s.awaits ch w (grantNeeded d)).tookJob j) := by
  have hjudge := took_judgeWrite_true s ch w (grantNeeded d) j _ hmay
  rw [Bool.or_self] at hjudge
  unfold State.judgeTake
  simp only [hfiler, hchan]
  unfold State.judgeTakeDelete
  rw [took_keptRec, hkept]
  simp only [← hd, hjudge]
  rfl

end WriteTake

/-! ### What the requests file -/

section Requests
variable {s : State} {ch : Chan} {body : Bytes} {a : SlotArgs}

theorem execWriteSlot_bad (hreq : s.request ch 0x28#8 = some body) (hparse : parseSlotArgs body = some a)
    (hbad : goodWriteArgs a = false ∨ goodSlotFields a.r = false) :
    exec (.writeSlot ch) s = .next (s.refuse ch .badArgument).settle := by
  refine (serveWork_of_request hreq _).trans ?_
  have hargs : (goodWriteArgs a && goodSlotFields a.r) = false := by obtain h | h := hbad <;> simp [h]
  simp only [hparse, hargs, Bool.false_eq_true, if_false]

theorem execWriteSlot_denied (hreq : s.request ch 0x28#8 = some body) (hparse : parseSlotArgs body = some a)
    (hargs : goodWriteArgs a = true) (hfields : goodSlotFields a.r = true) (hmay : s.mayWrite ch a.r.domain = false) :
    exec (.writeSlot ch) s = .next (s.refuse ch .notPermitted).settle := by
  refine (serveWork_of_request hreq _).trans ?_
  simp only [hparse, hargs, hfields, Bool.and_self, if_true, judgeWrite_false _ _ _ hmay]

theorem execWriteSlot_filed (hreq : s.request ch 0x28#8 = some body) (hparse : parseSlotArgs body = some a)
    (hargs : goodWriteArgs a = true) (hfields : goodSlotFields a.r = true) (hmay : s.mayWrite ch a.r.domain = true) :
    exec (.writeSlot ch) s =
      .next ((s.awaits ch .writeSlot (grantNeeded a.r.domain)).fileJob (writeSlotJob ch a)).settle := by
  refine (serveWork_of_request hreq _).trans ?_
  simp only [hparse, hargs, hfields, Bool.and_self, if_true, judgeWrite_true _ _ _ hmay]
  rfl

theorem execGenerateKey_bad (hreq : s.request ch 0x29#8 = some body) (hparse : parseSlotArgs body = some a)
    (hbad : goodGenerateArgs a = false ∨ goodSlotFields a.r = false) :
    exec (.generateKey ch) s = .next (s.refuse ch .badArgument).settle := by
  refine (serveWork_of_request hreq _).trans ?_
  have hargs : (goodGenerateArgs a && goodSlotFields a.r) = false := by obtain h | h := hbad <;> simp [h]
  simp only [hparse, hargs, Bool.false_eq_true, if_false]

theorem execGenerateKey_denied (hreq : s.request ch 0x29#8 = some body) (hparse : parseSlotArgs body = some a)
    (hargs : goodGenerateArgs a = true) (hfields : goodSlotFields a.r = true) (hmay : s.mayWrite ch a.r.domain = false) :
    exec (.generateKey ch) s = .next (s.refuse ch .notPermitted).settle := by
  refine (serveWork_of_request hreq _).trans ?_
  simp only [hparse, hargs, hfields, Bool.and_self, if_true, judgeWrite_false _ _ _ hmay]

theorem execGenerateKey_filed (hreq : s.request ch 0x29#8 = some body) (hparse : parseSlotArgs body = some a)
    (hargs : goodGenerateArgs a = true) (hfields : goodSlotFields a.r = true) (hmay : s.mayWrite ch a.r.domain = true) :
    exec (.generateKey ch) s =
      .next ((s.awaits ch (.generateKeygen a.slot a.r a.expected) (grantNeeded a.r.domain)).fileClaim (Chan.claimant ch)
        (.keygen (genKindOf a.r.kind))).settle := by
  refine (serveWork_of_request hreq _).trans ?_
  simp only [hparse, hargs, hfields, Bool.and_self, if_true, judgeWrite_true _ _ _ hmay]
  rfl

end Requests

section WriteSlot
variable {s : State} {ch : Chan} {a : SlotArgs} (hquiet : s.quiet = true) (hidle : s.store.idle = true)
include hquiet hidle

/-- WRITE SLOT's job that ends at one of the checks of R63. -/
theorem writeSlot_failed {o : JobEnd} {st : Status} {body : Bytes} (needed : Bool)
    (hcheck : s.store.takeCheck s.guard (writeSlotJob ch a) = some o)
    (hreply : ∀ t : State, t.replyJob ch o [] = t.reply ch st body) :
    ((s.awaits ch .writeSlot needed).fileJob (writeSlotJob ch a)).settle = (s.afterUse needed).reply ch st body := by
  refine fileJob_failed (by simpa using hquiet) (by simpa using hidle) (by simpa using hcheck) ?_ (by simpa using hquiet)
  rw [deliver_slotJob o rfl rfl (.inl rfl), hreply, awaits_reply]

/-- WRITE SLOT's job that ends at a judgment. -/
theorem writeSlot_judged {st : Status} (needed : Bool) (hcheck : s.store.takeCheck s.guard (writeSlotJob ch a) = none)
    (hjudge : ((s.awaits ch .writeSlot needed).tookJob (writeSlotJob ch a)).judgeTake (writeSlotJob ch a) =
      (some (.fail st), (s.awaits ch .writeSlot needed).tookJob (writeSlotJob ch a))) :
    ((s.awaits ch .writeSlot needed).fileJob (writeSlotJob ch a)).settle = (s.afterUse needed).reply ch st [] := by
  refine fileJob_judged (by simpa using hquiet) (by simpa using hidle) (by simpa using hcheck) hjudge (by simpa using hidle) ?_
    (by simpa using hquiet)
  rw [deliver_slotJob _ rfl rfl (.inl rfl)]
  exact awaits_reply _ _ _ _ _ _

end WriteSlot

theorem awaits_writes {s : State} {ch : Chan} {w : Work} {needed : Bool} {j : WriteJob} {st : Store} {p : Nat} {before : Bool}
    (hquiet : s.quiet = true) (hidle : s.store.idle = true) (hplace : s.store.place = some (st, p))
    (hcheck : s.store.takeCheck s.guard j = none)
    (hjudge : ((s.awaits ch w before).tookJob j).judgeTake j = (none, (s.awaits ch w needed).tookJob j)) :
    ((s.awaits ch w before).fileJob j).settle = { s.awaits ch w needed with store := st.writes j p } :=
  State.settle_job (s.awaits ch w before) (s.awaits ch w needed) j st p (by simpa using hquiet) (by simpa using hidle)
    (by simpa using hplace) (by simpa using hcheck) hjudge (by simpa using hquiet) (by simp)

/-- WRITE SLOT over every outcome of its checks and judgments (R83, R84). -/
theorem writeSlot_answers {ch : Chan} {s : State} {body : Bytes} {a : SlotArgs} (hquiet : s.quiet = true)
    (hreq : s.request ch 0x28#8 = some body) (hparse : parseSlotArgs body = some a) (hargs : goodWriteArgs a = true)
    (hfields : goodSlotFields a.r = true) (hmay : s.mayWrite ch a.r.domain = true) (hidle : s.store.idle = true) :
    (∀ g, a.expected = some g → g ≠ s.store.gen a.slot →
      exec (.writeSlot ch) s =
        .next ((s.afterUse (grantNeeded a.r.domain)).reply ch .generationMismatch (be 4 (s.store.gen a.slot).toNat))) ∧
    (a.expected = none ∨ a.expected = some (s.store.gen a.slot) → s.guard.allows a.slot = false →
      exec (.writeSlot ch) s = .next ((s.afterUse (grantNeeded a.r.domain)).reply ch .guarded [])) ∧
    (a.expected = none ∨ a.expected = some (s.store.gen a.slot) → s.guard.allows a.slot = true →
      s.store.gen a.slot ≠ 0xFFFFFFFF#32 →
      (∀ r, s.store.keptRec a.slot = some r → r.kind = .verifier →
        exec (.writeSlot ch) s = .next ((s.afterUse (grantNeeded a.r.domain)).reply ch .slotKind [])) ∧
      (∀ r, s.store.keptRec a.slot = some r → r.kind ≠ .verifier → s.mayWrite ch r.domain = false →
        exec (.writeSlot ch) s = .next ((s.afterUse (grantNeeded a.r.domain)).reply ch .notPermitted [])) ∧
      (∀ needed st p, s.store.place = some (st, p) →
        (s.store.keptRec a.slot = none ∧ needed = grantNeeded a.r.domain ∨
          ∃ r, s.store.keptRec a.slot = some r ∧ r.kind ≠ .verifier ∧ s.mayWrite ch r.domain = true ∧
            needed = (grantNeeded a.r.domain || grantNeeded r.domain)) →
        exec (.writeSlot ch) s =
          .next { s.awaits ch .writeSlot needed with store := st.writes (writeSlotJob ch a) p })) := by
  have huser : userSlot a.slot = true := by
    unfold goodWriteArgs at hargs
    simp only [Bool.and_eq_true] at hargs
    exact hargs.1.1
  rw [execWriteSlot_filed hreq hparse hargs hfields hmay]
  refine ⟨fun g hg hother => ?_, fun hexpected hshut => ?_, fun hexpected hopen htop => ?_⟩
  · exact congrArg _ (writeSlot_failed hquiet hidle _ (takeCheck_mismatch hidle hg hother) fun _ => rfl)
  · exact congrArg _ (writeSlot_failed hquiet hidle _ (takeCheck_guarded hidle hexpected rfl huser hshut) fun _ => rfl)
  · have hcheck : s.store.takeCheck s.guard (writeSlotJob ch a) = none :=
      takeCheck_passes hidle hexpected (fun _ _ => hopen) htop
    refine ⟨fun r hkept hkind => ?_, fun r hkept hkind hover => ?_, fun needed st p hplace hover => ?_⟩
    · exact congrArg _ (writeSlot_judged hquiet hidle _ hcheck (judgeTake_write_verifier (j := writeSlotJob ch a) rfl rfl hmay hkept hkind))
    · exact congrArg _ (writeSlot_judged hquiet hidle _ hcheck (judgeTake_write_denied (j := writeSlotJob ch a) rfl rfl hmay hkept hkind hover))
    · exact congrArg _ (awaits_writes hquiet hidle hplace hcheck (judgeTake_write_passes (j := writeSlotJob ch a) rfl rfl hmay hover))

/-! ### DELETE SLOT (R86) -/

theorem parseDeleteSlot_body (n : Byte) (g : Option Word) :
    parseDeleteSlot (n :: optBytes (g.map fun x => be 4 x.toNat)) = some (n.toNat, g) :=
  (layout_ends (parseDeleteSlot_layout n g) 0#8).1

section Delete
variable {s : State} {ch : Chan} {n : Byte} {g : Option Word}
  (hreq : s.request ch 0x2A#8 = some (n :: optBytes (g.map fun x => be 4 x.toNat))) (huser : userSlot n.toNat = true)
include hreq huser

theorem execDeleteSlot_none (hkept : s.store.keptRec n.toNat = none) :
    exec (.deleteSlot ch) s = .next (s.reply ch .noSlot (be 4 (s.store.gen n.toNat).toNat)).settle := by
  refine (serveWork_of_request hreq _).trans ?_
  simp only [parseDeleteSlot_body, huser, if_true, hkept]

theorem execDeleteSlot_denied {r : Rec} (hkept : s.store.keptRec n.toNat = some r)
    (hmay : s.mayWrite ch (if r.kind = .verifier then some .owner else r.domain) = false) :
    exec (.deleteSlot ch) s = .next (s.refuse ch .notPermitted).settle := by
  refine (serveWork_of_request hreq _).trans ?_
  simp only [parseDeleteSlot_body, huser, if_true, hkept, judgeWrite_false _ _ _ hmay]

theorem execDeleteSlot_filed {r : Rec} (hkept : s.store.keptRec n.toNat = some r)
    (hmay : s.mayWrite ch (if r.kind = .verifier then some .owner else r.domain) = true) :
    exec (.deleteSlot ch) s =
      .next ((s.awaits ch .deleteSlot (grantNeeded (if r.kind = .verifier then some .owner else r.domain))).fileJob
        (deleteSlotJob ch n.toNat g)).settle := by
  refine (serveWork_of_request hreq _).trans ?_
  simp only [parseDeleteSlot_body, huser, if_true, hkept, judgeWrite_true _ _ _ hmay]
  rfl

end Delete

/-! ### The tables of the checks (R80 to R83, R85) -/

theorem goodWriteArgs_iff (a : SlotArgs) :
    goodWriteArgs a = true ↔ 1 ≤ a.slot ∧ a.slot ≤ 254 ∧ a.r.label.length ≤ 24 ∧
      (a.r.kind = .secret ∧ 1 ≤ a.r.payload.length ∧ a.r.payload.length ≤ 64 ∨ a.r.kind = .linkKey ∧ a.r.payload.length = 32 ∨
        a.r.kind = .trustAnchor ∧ a.r.payload.length = 64) := by
  unfold goodWriteArgs userSlot
  cases a.r.kind <;> simp [and_assoc]

theorem goodGenerateArgs_iff (a : SlotArgs) :
    goodGenerateArgs a = true ↔ 1 ≤ a.slot ∧ a.slot ≤ 254 ∧ a.r.label.length ≤ 24 ∧ a.r.payload.length = 0 ∧
      (a.r.kind = .signingKey ∨ a.r.kind = .linkKey) := by
  unfold goodGenerateArgs userSlot
  simp [and_assoc]

/-- The one use flag a kind may have (R80). -/
theorem useFlags_getLsbD (k : Kind) (i : Nat) :
    (Kind.useFlags k).getLsbD i = true ↔ (k, i) ∈ [(Kind.signingKey, 0), (.linkKey, 1), (.secret, 2), (.trustAnchor, 3)] := by
  by_cases hi : i < 8
  · have hsmall : ∀ j, j < 8 → ((Kind.useFlags k).getLsbD j = true ↔
        (k, j) ∈ [(Kind.signingKey, 0), (.linkKey, 1), (.secret, 2), (.trustAnchor, 3)]) := by
      cases k <;> decide
    exact hsmall i hi
  · have hout : (Kind.useFlags k).getLsbD i = false := BitVec.getLsbD_of_ge _ _ (by omega)
    rw [hout]
    simp
    omega

/-- No bit of one byte is outside another. -/
theorem subset_iff_getLsbD (x y : Byte) : (x &&& ~~~ y == 0#8) = true ↔ ∀ i, x.getLsbD i = true → y.getLsbD i = true := by
  rw [beq_iff_eq]
  constructor
  · intro h i hx
    have hbit := congrArg (fun v => v.getLsbD i) h
    have hi : i < 8 := BitVec.lt_of_getLsbD hx
    simpa [hx, hi] using hbit
  · intro h
    refine BitVec.eq_of_getLsbD_eq fun i hi => ?_
    cases hx : x.getLsbD i with
    | false => simp [hx]
    | true => simp [hx, h i hx]

theorem admits_iff (d : Domain) (k : Kind) :
    Domain.admits d k = true ↔ (d, k) ∈ [(Domain.platform, Kind.signingKey), (.platform, .linkKey), (.update, .trustAnchor),
      (.owner, .verifier), (.network, .secret), (.network, .linkKey), (.client, .secret), (.client, .linkKey),
      (.client, .signingKey), (.service, .signingKey), (.service, .linkKey), (.service, .secret)] := by
  cases d <;> cases k <;> decide

theorem goodSlotFields_iff (r : Rec) :
    goodSlotFields r = true ↔
      (∃ d, r.domain = some d ∧
        (d, r.kind) ∈ [(Domain.platform, Kind.signingKey), (.platform, .linkKey), (.update, .trustAnchor), (.owner, .verifier),
          (.network, .secret), (.network, .linkKey), (.client, .secret), (.client, .linkKey), (.client, .signingKey),
          (.service, .signingKey), (.service, .linkKey), (.service, .secret)]) ∧
      (∀ i, r.flags.getLsbD i = true →
        (r.kind, i) ∈ [(Kind.signingKey, 0), (.linkKey, 1), (.secret, 2), (.trustAnchor, 3)]) ∧
      (r.kind = .trustAnchor → r.needsOwner = false ∧ r.mask = 0#8) := by
  have hdomain : (r.domain.any fun d => Domain.admits d r.kind) = true ↔ ∃ d, r.domain = some d ∧ Domain.admits d r.kind = true := by
    cases r.domain <;> simp
  have hanchor : (r.kind != .trustAnchor || (!r.needsOwner && r.mask == 0#8)) = true ↔
      (r.kind = .trustAnchor → r.needsOwner = false ∧ r.mask = 0#8) := by
    by_cases h : r.kind = .trustAnchor <;> simp [h]
  unfold goodSlotFields
  simp only [Bool.and_eq_true, and_assoc, hdomain, hanchor, subset_iff_getLsbD, useFlags_getLsbD, admits_iff]

theorem grantNeeded_iff (d : Domain) : grantNeeded (some d) = true ↔ d = .owner ∨ d = .network ∨ d = .client := by
  cases d <;> decide

theorem writableOn_iff (d : Domain) (ch : Chan) :
    d.writableOn ch = true ↔
      (d, ch) ∈ [(Domain.platform, Chan.S), (.platform, .A), (.update, .S), (.owner, .A), (.network, .A), (.client, .A),
        (.service, .A)] := by
  cases d <;> cases ch <;> decide

theorem bit_iff (d : Domain) (bit : Nat) :
    bit = d.bit ↔
      (d, bit) ∈ [(Domain.platform, 0), (.update, 1), (.owner, 2), (.network, 3), (.client, 4), (.service, 5)] := by
  cases d <;> simp [Domain.bit]

/-- The write right of a channel over a domain (R81). -/
theorem mayWrite_iff (s : State) (ch : Chan) (d : Domain) :
    s.mayWrite ch (some d) = true ↔
      (∃ bit, (d, bit) ∈ [(Domain.platform, 0), (.update, 1), (.owner, 2), (.network, 3), (.client, 4), (.service, 5)] ∧
        (match ch with
          | .S => s.chS
          | .A => s.chA).grants.getLsbD bit = true) ∧
      (d, ch) ∈ [(Domain.platform, Chan.S), (.platform, .A), (.update, .S), (.owner, .A), (.network, .A), (.client, .A),
        (.service, .A)] ∧
      (d = .owner ∨ d = .network ∨ d = .client → ∃ g, s.owner.grant = some g) := by
  have hgranted : s.granted ch (some d) = (match ch with
      | .S => s.chS
      | .A => s.chA).grants.getLsbD d.bit := by cases ch <;> rfl
  have hneeds : (!d.needsGrant || s.owner.grant.isSome) = true ↔
      (d = .owner ∨ d = .network ∨ d = .client → ∃ g, s.owner.grant = some g) := by
    rw [← grantNeeded_iff]
    show _ ↔ (d.needsGrant = true → _)
    cases d.needsGrant <;> simp [Option.isSome_iff_exists]
  unfold State.mayWrite
  simp only [Option.any_some, Bool.and_eq_true, hgranted, hneeds, writableOn_iff, ← bit_iff, exists_eq_left, and_assoc]

/-- Settles O29: the three requests over the outcomes of their checks and judgments, and the tables those check by. -/
theorem slotWritesAndDeletes : Obligations.SlotWritesAndDeletes := by
  refine ⟨fun ch s body a hquiet hparse => ⟨fun hreq => ⟨fun hbad => ?_, fun hargs hfields => ⟨fun hmay => ?_, fun hmay hidle => ?_⟩⟩,
    fun hreq => ⟨fun hbad => ?_, fun hargs hfields => ⟨fun hmay => ?_, fun hmay hfree => ?_⟩⟩⟩,
    fun ch s n g hquiet hreq hlow hhigh => ?deletes, ?args, goodSlotFields_iff, fun s ch d => ?rights⟩
  · rw [execWriteSlot_bad hreq hparse hbad, settle_refuse hquiet]
  · rw [execWriteSlot_denied hreq hparse hargs hfields hmay, settle_refuse hquiet]
  · exact writeSlot_answers hquiet hreq hparse hargs hfields hmay hidle
  · rw [execGenerateKey_bad hreq hparse hbad, settle_refuse hquiet]
  · rw [execGenerateKey_denied hreq hparse hargs hfields hmay, settle_refuse hquiet]
  · rw [execGenerateKey_filed hreq hparse hargs hfields hmay]
    refine congrArg _ ((State.settle_claim _ _ _ _ (by simpa using hquiet) (by simpa using hfree) rfl).trans ?_)
    rw [awaits_engine]
    cases ch <;> rfl
  case deletes =>
    have huser : userSlot n.toNat = true := by simp [userSlot, hlow, hhigh]
    refine ⟨fun hkept => ?_, ?_⟩
    · rw [execDeleteSlot_none hreq huser hkept, settle_reply hquiet]
    · rintro r d hkept rfl
      refine ⟨fun hmay => ?_, fun st p hmay hidle hexpected hopen htop hplace => ?_⟩
      · rw [execDeleteSlot_denied hreq huser hkept hmay, settle_refuse hquiet]
      · rw [execDeleteSlot_filed hreq huser hkept hmay]
        exact congrArg _ (awaits_writes hquiet hidle hplace (takeCheck_passes hidle hexpected (fun _ _ => hopen) htop)
          (judgeTake_delete_passes (j := deleteSlotJob ch n.toNat g) rfl rfl hkept rfl hmay))
  case args =>
    rintro a len rfl
    exact ⟨goodWriteArgs_iff a, goodGenerateArgs_iff a⟩
  case rights =>
    refine ⟨rfl, grantNeeded_iff d, mayWrite_iff s ch d, rfl, fun g hg => ?_⟩
    show s.useGrant = _
    unfold State.useGrant
    rw [hg]

end Sys2Proof.Machine

/-! The ends of programs and voids, and what a commit gives its filer (O30, O31). -/
namespace Sys2Proof.Machine

/-! ### The commit (R65) -/

section Commit
variable (s : State) (t : Taken) (page : Nat) (bytes : Bytes)

/-- The state whose page has been read back as intended, before the commit. -/
def State.readBack : State :=
  { s with store := { s.store with mem := Mem.setPage s.store.mem page (programmed bytes none), op := none } }

/-- The commit over the slot map and the context table, before the owner unit is told. -/
def State.mapped (j : WriteJob) : State :=
  ({ s with store := { ((s.readBack page bytes).store.markUsed page).fillIfFull (blockOf page) with
      map := insertEntry { slot := j.slot, page := page, gen := s.store.gen j.slot + 1#32 } s.store.map } } : State).invalidate
    fun c => c.slot == j.slot

theorem mapped_taken (j : WriteJob) : (s.mapped page bytes j).store.taken = s.store.taken := by
  show ((s.readBack page bytes).store.markUsed page |>.fillIfFull (blockOf page)).taken = _
  rw [fillIfFull_taken, markUsed_taken]
  rfl

/-- With the controller's job ended the store is the committed one. -/
theorem mapped_idle (j : WriteJob) :
    ({ s.mapped page bytes j with store := { (s.mapped page bytes j).store with taken := none } } : State) =
      ({ s with store := s.store.committed j page bytes } : State).invalidate fun c => c.slot == j.slot :=
  congrArg (fun st => ({ s with store := st } : State).invalidate fun c => c.slot == j.slot) (committed_eq s.store j page bytes)

/-- A commit other than a tombstone's over a VERIFIER. -/
theorem commitJob_plain (htaken : s.store.taken = some t)
    (hplain : t.job.record.kind ≠ .empty ∨ t.job.slot = 0 ∨ 255 ≤ t.job.slot ∨
      ∀ old, (s.readBack page bytes).store.liveRec t.job.slot = some old → old.kind ≠ .verifier) :
    (s.readBack page bytes).commitJob t.job page =
      (({ s with store := s.store.committed t.job page bytes } : State).invalidate fun c => c.slot == t.job.slot).deliver t.job
        (.commit (s.store.gen t.job.slot + 1#32)) := by
  have hnotice : (userSlot t.job.slot && ((s.readBack page bytes).store.liveRec t.job.slot).any (·.kind == .verifier) &&
      t.job.record.kind == .empty) = false := by
    obtain h | h | h | h := hplain
    · simp [h]
    · simp [h, userSlot]
    · simp [userSlot, show ¬ t.job.slot ≤ 254 by omega]
    · cases hlive : (s.readBack page bytes).store.liveRec t.job.slot with
      | none => simp
      | some old => simp [h old hlive]
  rw [← mapped_idle, ← endJob_of _ t ((mapped_taken s page bytes t.job).trans htaken)]
  refine (congrArg (fun b : Bool => State.endJob (if b then (s.mapped page bytes t.job).verifierGone t.job.slot
    else s.mapped page bytes t.job) (.commit (s.store.gen t.job.slot + 1#32))) hnotice)

/-- The notice of R96 leaves the store alone. -/
theorem verifierGone_withStore (u : State) (st : Store) (n : Nat) :
    ({ u with store := st } : State).verifierGone n = { u.verifierGone n with store := st } := by
  unfold State.verifierGone State.endGrant
  dsimp only
  cases u.owner.grant with
  | none => rfl
  | some g => by_cases h : g.slot = n <;> simp [h] <;> rfl

theorem verifierGone_store (u : State) (n : Nat) : (u.verifierGone n).store = u.store := by
  have h := congrArg (fun x : State => x.store) (verifierGone_withStore u u.store n)
  exact h

/-- A tombstone's commit over a VERIFIER tells the owner unit (R96). -/
theorem commitJob_verifier (old : Rec) (htaken : s.store.taken = some t) (hkind : t.job.record.kind = .empty)
    (huser : userSlot t.job.slot = true) (hlive : (s.readBack page bytes).store.liveRec t.job.slot = some old)
    (hold : old.kind = .verifier) :
    (s.readBack page bytes).commitJob t.job page =
      ((({ s with store := s.store.committed t.job page bytes } : State).invalidate fun c => c.slot == t.job.slot).verifierGone
        t.job.slot).deliver t.job (.commit (s.store.gen t.job.slot + 1#32)) := by
  have hnotice : (userSlot t.job.slot && ((s.readBack page bytes).store.liveRec t.job.slot).any (·.kind == .verifier) &&
      t.job.record.kind == .empty) = true := by simp [huser, hlive, hold, hkind]
  have htold : ((s.mapped page bytes t.job).verifierGone t.job.slot).store.taken = some t := by
    rw [verifierGone_store]
    exact (mapped_taken s page bytes t.job).trans htaken
  rw [← mapped_idle, verifierGone_withStore, ← verifierGone_store (s.mapped page bytes t.job) t.job.slot, ← endJob_of _ t htold]
  exact congrArg (fun b : Bool => State.endJob (if b then (s.mapped page bytes t.job).verifierGone t.job.slot
    else s.mapped page bytes t.job) (.commit (s.store.gen t.job.slot + 1#32))) hnotice

end Commit

/-! ### The ends of a program and of a void -/

theorem execPageProgramDone_of_program {s : State} {page : Nat} {bytes : Bytes} (bad : Option Bytes)
    (hop : s.store.op = some (.program page bytes)) :
    exec (.pageProgramDone bad) s = .next (s.programDone page bytes bad).settle := by
  show execPageProgramDone bad s = _
  unfold execPageProgramDone
  rw [hop]

theorem programDone_good {s : State} {t : Taken} (page : Nat) (bytes : Bytes) (htaken : s.store.taken = some t) :
    s.programDone page bytes none = (s.readBack page bytes).commitJob t.job page := by
  unfold State.programDone
  rw [htaken]
  exact if_pos rfl

theorem programDone_bad {s : State} {t : Taken} {page : Nat} {bytes bad : Bytes} (htaken : s.store.taken = some t)
    (hbad : fit 256 0xFF#8 bad ≠ fit 256 0xFF#8 bytes) :
    s.programDone page bytes (some bad) =
      { s with store := { s.store.markUsed page with
          mem := Mem.setPage s.store.mem page (fit 256 0xFF#8 bad), taken := some { t with attempts := t.attempts + 1 },
          op := some (.void page) } } := by
  unfold State.programDone
  rw [htaken]
  refine (if_neg hbad).trans ?_
  unfold State.mapStore
  dsimp only
  rw [markUsed_withMem]
  rfl

theorem execPageVoidDone_of_void {s : State} {page : Nat} (bad : Option Word) (hop : s.store.op = some (.void page)) :
    exec (.pageVoidDone bad) s = .next (s.voidDone page bad).settle := by
  show execPageVoidDone bad s = _
  unfold execPageVoidDone
  rw [hop]

theorem execPageVoidDone_of_copyVoid {s : State} {page : Nat} (bad : Option Word) (hop : s.store.op = some (.copyVoid page)) :
    exec (.pageVoidDone bad) s = .next (s.copyVoidDone page bad).settle := by
  show execPageVoidDone bad s = _
  unfold execPageVoidDone
  rw [hop]

theorem voidDone_eq {s u : State} {t : Taken} {page : Nat} {bad : Option Word} (htaken : s.store.taken = some t)
    (hu : u = { s with
      store := ({ s.store with mem := voidGen s.store.mem page bad, op := none } : Store).fillIfFull (page / 16) }) :
    s.voidDone page bad = if 3 ≤ t.attempts then u.endJob (.fail .storeFault) else u := by
  unfold State.voidDone
  rw [htaken, hu]
  rfl

/-- Settles O30: a good readback commits, a bad one voids; a void goes on, or ends the job at its third failed attempt. -/
theorem pageProgramAndVoid : Obligations.PageProgramAndVoid := by
  refine ⟨fun s t page bytes hop htaken => ⟨fun u hplain hu => ?_, fun u bad hbad hu => ?_⟩,
    fun s u page bad => ⟨fun t hop htaken hu => ?_, fun hop hu => ?_⟩⟩
  · rw [execPageProgramDone_of_program none hop, programDone_good page bytes htaken, hu]
    rw [commitJob_plain s t page bytes htaken hplain]
  · rw [execPageProgramDone_of_program _ hop, programDone_bad htaken hbad, hu]
  · rw [execPageVoidDone_of_void bad hop, voidDone_eq htaken hu]
    refine ⟨fun hmore => by rw [if_neg (by omega)], fun hlast => ?_⟩
    have hstill : u.store.taken = some t := by
      rw [hu]
      exact (fillIfFull_taken _ _).trans htaken
    rw [if_pos hlast, endJob_of u t hstill]
  · rw [execPageVoidDone_of_copyVoid bad hop, hu]
    rfl

/-! ### What an outcome gives its filer -/

section Deliver
variable {s : State} {j : WriteJob}

theorem deliver_settings {n v : Nat} (h : j.filer = .settings n v) (o : JobEnd) : s.deliver j o = s.settingEnded n v o := by
  unfold State.deliver; rw [h]

theorem deliver_setVerifier (h : j.filer = .setVerifier) (o : JobEnd) : s.deliver j o = s.setVerifierEnded j o := by
  unfold State.deliver; rw [h]

theorem deliver_matchWrite (h : j.filer = .matchWrite) (o : JobEnd) : s.deliver j o = s.matchEnded j o := by
  unfold State.deliver; rw [h]

theorem deliver_precharge (h : j.filer = .precharge) (o : JobEnd) : s.deliver j o = s.prechargeEnded j o := by
  unfold State.deliver; rw [h]

theorem deliver_generateKey {ch : Chan} {pub : Option Bytes} (h : j.filer = .generateKey) (hlive : j.orphan = false)
    (hchan : j.chan = some ch) (hwork : (s.chan ch).work = .generateStore pub) (o : JobEnd) :
    s.deliver j o = s.replyJob ch o (optBytes pub) := by
  have hstage : s.work ch = .generateStore pub := hwork
  unfold State.deliver State.generateEnded
  simp [h, hlive, hchan, hstage]

/-- A slot job whose request is gone gives nothing. -/
theorem deliver_orphan (h : j.filer = .writeSlot ∨ j.filer = .deleteSlot ∨ j.filer = .generateKey) (hgone : j.orphan = true)
    (o : JobEnd) : s.deliver j o = s := by
  unfold State.deliver
  obtain h | h | h := h <;> simp [h, hgone]

/-- The entry kept with an attempt that waits, by the attempt's stage. -/
theorem noteEntry_cases (n : Nat) :
    ((∀ m cand before, s.chA.work ≠ .verifyPrecharge m cand before) → s.noteEntry n = s) ∧
    (∀ m cand before, s.chA.work = .verifyPrecharge m cand before →
      s.noteEntry n = s.setWork .A (.verifyPrecharge m cand (if m = n then s.owner.entry n else before))) := by
  unfold State.noteEntry
  constructor
  · intro hnone
    split
    · rename_i m cand before hwork
      exact absurd hwork (hnone m cand before)
    · rfl
  · intro m cand before hwork
    have hstage : s.work .A = .verifyPrecharge m cand before := hwork
    simp only [hstage]

end Deliver

/-- The commit of an owner unit's job whose request is gone: the slot's entry, and the entry kept with an attempt that waits. -/
theorem deliver_commit_orphan {s : State} {j : WriteJob} {g : Word} {x : HoldEntry} {p : Params} {c : Nat}
    (hgone : j.orphan = true) (hp : p = verifierParams j.record.payload) (hc : c = verifierCount j.record.payload)
    (hcase : j.filer = .precharge ∧
        x = { slot := j.slot, count := c, holdUntil := min 4294967295 (s.owner.uptime + holdOff p c), lastEvent := s.owner.uptime } ∨
      j.filer = .matchWrite ∧ x = { s.holdOf j.slot with count := 0 } ∨
      j.filer = .setVerifier ∧ x = { slot := j.slot, count := 0, holdUntil := 0, lastEvent := s.owner.uptime }) :
    s.deliver j (.commit g) = (s.setHold x).noteEntry j.slot ∧ ∀ st, s.deliver j (.fail st) = s := by
  subst hp hc
  obtain ⟨hf, rfl⟩ | ⟨hf, rfl⟩ | ⟨hf, rfl⟩ := hcase
  · refine ⟨?_, fun st => ?_⟩
    · rw [deliver_precharge hf]
      exact if_pos hgone
    · rw [deliver_precharge hf]
      exact if_pos hgone
  · refine ⟨?_, fun st => ?_⟩
    · rw [deliver_matchWrite hf]
      exact if_pos hgone
    · rw [deliver_matchWrite hf]
      exact if_pos hgone
  · refine ⟨?_, fun st => ?_⟩
    · rw [deliver_setVerifier hf]
      exact if_pos hgone
    · rw [deliver_setVerifier hf]
      exact if_pos hgone

/-- Settles O31: the outcome at each filer, live and gone, and the notice of a tombstone over a VERIFIER. -/
theorem commitNotices : Obligations.CommitNotices := by
  refine ⟨fun s j ch g hlive hchan => ⟨fun hf => ?_, fun pub hf hwork => ?_, fun n v hf => ?_, ?_⟩,
    fun s j ch g st hlive hchan => ⟨fun hf => ?_, fun n v hf => ?_⟩, ?verifier, fun s j g st hf hlive => ⟨?_, fun c hwork => ?_⟩,
    fun s u j g st o x p c hgone hp hc => ⟨fun hf => ?_, fun hcase hu => ?_⟩⟩
  · rw [deliver_slotJob _ hlive hchan hf]
    simp [State.replyJob]
  · rw [deliver_generateKey hf hlive hchan hwork]
    rfl
  · rw [deliver_settings hf]
    rfl
  · rintro p hf rfl
    rw [deliver_setVerifier hf]
    unfold State.setVerifierEnded
    simp [hlive, State.replyJob, paramsBytes]
  · have hreplies : s.deliver j (.fail st) = s.replyJob ch (.fail st) [] ∧
        s.deliver j (.withGen st g) = s.replyJob ch (.withGen st g) [] := by
      obtain h | h | ⟨pub, h, hwork⟩ | ⟨h, rfl⟩ := hf
      · exact ⟨deliver_slotJob _ hlive hchan (.inl h), deliver_slotJob _ hlive hchan (.inl h)⟩
      · exact ⟨deliver_slotJob _ hlive hchan (.inr h), deliver_slotJob _ hlive hchan (.inr h)⟩
      · exact ⟨deliver_generateKey h hlive hchan hwork _, deliver_generateKey h hlive hchan hwork _⟩
      · rw [deliver_setVerifier h, deliver_setVerifier h]
        exact ⟨if_neg (by simp [hlive]), if_neg (by simp [hlive])⟩
    exact hreplies
  · rw [deliver_settings hf]
    rfl
  case verifier =>
    intro s u v t page bytes old hop htaken hkind hlow hhigh hlive hold hu hv
    have huser : userSlot t.job.slot = true := by simp [userSlot, hlow, hhigh]
    have hgone : (({ s with store := s.store.committed t.job page bytes } : State).invalidate fun c =>
        c.slot == t.job.slot).verifierGone t.job.slot = v := by
      subst hu hv
      unfold State.verifierGone State.endGrant
      cases hgrant : s.owner.grant with
      | none => simp [State.invalidate, hgrant]
      | some g => by_cases h : g.slot = t.job.slot <;> simp [State.invalidate, hgrant, h]
    rw [execPageProgramDone_of_program none hop, programDone_good page bytes htaken,
      commitJob_verifier s t page bytes old htaken hkind huser hlive hold, hgone]
  · rw [deliver_matchWrite hf]
    exact (if_neg (by simp [hlive])).trans (by simp [optBytes])
  · have hstage : s.work .A = .verifyMatch c := hwork
    rw [deliver_matchWrite hf]
    unfold State.matchEnded
    simp [hlive, hstage, optBytes, JobEnd.status]
  · exact deliver_orphan hf hgone o
  · obtain ⟨hcommit, hfail⟩ := deliver_commit_orphan (g := g) hgone hp hc hcase
    have hwork : u.chA.work = s.chA.work := by rw [hu]; rfl
    rw [hcommit, ← hu]
    obtain ⟨hother, hwaits⟩ := noteEntry_cases (s := u) j.slot
    exact ⟨hfail st, fun h => hother (by rw [hwork]; exact h), fun n cand before h => hwaits n cand before (hwork.trans h)⟩

end Sys2Proof.Machine

/-! Copies, the close and the abandonment of a compaction, and the ends of erases (O32). -/
namespace Sys2Proof.Machine

/-! ### A copied record reads as its page does (R69) -/

/-- A page is judged by its record alone: pages of one length that agree on the record's bytes are judged alike. -/
theorem parsePage_congr {p q : Bytes} (hlen : q.length = p.length)
    (h : q.take (46 + (byteAt p 42).toNat + (byteAt p (43 + (byteAt p 42).toNat)).toNat) =
      p.take (46 + (byteAt p 42).toNat + (byteAt p (43 + (byteAt p 42).toNat)).toNat)) : parsePage q = parsePage p := by
  have byte (i : Nat) (hi : i < 46 + (byteAt p 42).toNat + (byteAt p (43 + (byteAt p 42).toNat)).toNat) :
      byteAt q i = byteAt p i := byteAt_of_take h hi
  have part (off n : Nat) (hi : off + n ≤ 46 + (byteAt p 42).toNat + (byteAt p (43 + (byteAt p 42).toNat)).toNat) :
      slice q off n = slice p off n := slice_of_take h hlen hi
  have hlabel := byte 42 (by omega)
  have hpayload : byteAt q (43 + (byteAt q 42).toNat) = byteAt p (43 + (byteAt p 42).toNat) := by
    rw [hlabel]; exact byte _ (by omega)
  unfold parsePage
  simp only [hlabel, byte 0 (by omega), byte 5 (by omega), byte 6 (by omega), byte 7 (by omega), byte 8 (by omega),
    byte 9 (by omega), byte (43 + (byteAt p 42).toNat) (by omega), part 1 4 (by omega), part 10 32 (by omega),
    part 43 (byteAt p 42).toNat (by omega), part (44 + (byteAt p 42).toNat) (byteAt p (43 + (byteAt p 42).toNat)).toNat (by omega),
    part (44 + (byteAt p 42).toNat + (byteAt p (43 + (byteAt p 42).toNat)).toNat) 2 (by omega),
    take_of_take h (show 44 + (byteAt p 42).toNat + (byteAt p (43 + (byteAt p 42).toNat)).toNat ≤ _ by omega)]

/-- The lengths that a good page gives. -/
theorem parsePage_lengths {p : Bytes} {g : GoodPage} (h : parsePage p = some g) :
    (byteAt p 42).toNat ≤ 24 ∧ (byteAt p (43 + (byteAt p 42).toNat)).toNat ≤ 160 := by
  unfold parsePage at h
  dsimp only at h
  split at h
  · cases h
  · split at h
    · rename_i hgood
      obtain ⟨-, hlabel, hpayload, -⟩ := hgood
      exact ⟨hlabel, hpayload⟩
    · cases h

theorem parsePage_copy {page : Bytes} {g : GoodPage} (hlen : page.length = 256) (h : parsePage page = some g) :
    parsePage (fit 256 0xFF#8 (recordOf page)) = some g := by
  obtain ⟨hlabel, hpayload⟩ := parsePage_lengths h
  have hrec : (recordOf page).length = 46 + (byteAt page 42).toNat + (byteAt page (43 + (byteAt page 42).toNat)).toNat := by
    unfold recordOf
    rw [List.length_take, hlen]
    omega
  rw [← h]
  apply parsePage_congr
  · unfold fit
    rw [List.length_append, List.length_take, List.length_replicate, hlen]
    omega
  · unfold fit
    rw [List.take_of_length_le (show (recordOf page).length ≤ 256 by omega), ← hrec, List.take_left, hrec]
    rfl

/-! ### The next step of a compaction -/

section CopyNext
variable {s : State} {c : Compaction} (hcomp : s.store.comp = some c)
include hcomp

theorem copyNext_copy {p d : Nat} (hlive : (pagesOf c.victim).find? s.store.isLive = some p)
    (hfill : s.store.fillPoint c.target = some d) :
    s.copyNext =
      { s with store := { s.store with op := some (.copy p d (fit 256 0xFF#8 (recordOf (Mem.readPage s.store.mem p)))) } } := by
  unfold State.copyNext
  rw [hcomp]
  dsimp only
  rw [hlive]
  dsimp only
  rw [hfill]
  rfl

theorem copyNext_close (hlive : (pagesOf c.victim).find? s.store.isLive = none) :
    s.copyNext = { s with store := s.store.closeCompaction c } := by
  unfold State.copyNext
  rw [hcomp]
  dsimp only
  rw [hlive]
  rfl

theorem copyNext_abandon {p : Nat} (hlive : (pagesOf c.victim).find? s.store.isLive = some p)
    (hfill : s.store.fillPoint c.target = none) : s.copyNext = s.abandonCompaction c := by
  unfold State.copyNext
  simp only [hcomp, hlive, hfill]

end CopyNext

/-! ### The end of a copy -/

theorem exec_copyProgramDone {s : State} {src dst : Nat} {bytes : Bytes} (bad : Option Bytes)
    (hop : s.store.op = some (.copy src dst bytes)) :
    exec (.copyProgramDone bad) s = .next (s.copyDone src dst bytes bad).settle := by
  show execCopyProgramDone bad s = _
  unfold execCopyProgramDone
  rw [hop]

/-- A copy read back as intended moves the entry, and the compaction goes on. -/
theorem copyDone_good (s : State) (src dst : Nat) (bytes : Bytes) :
    s.copyDone src dst bytes none =
      ({ s with store := { s.store.markUsed dst with
          mem := Mem.setPage s.store.mem dst (fit 256 0xFF#8 bytes), op := none,
          map := movePage src dst s.store.map } } : State).copyNext := by
  unfold State.copyDone
  refine (if_pos rfl).trans ?_
  unfold State.mapStore
  dsimp only
  rw [markUsed_withMem]
  dsimp only
  rw [Store.markUsed_map]
  rfl

/-- A copy read back otherwise is to be voided. -/
theorem copyDone_bad {s : State} {src dst : Nat} {bytes bad : Bytes} (hbad : fit 256 0xFF#8 bad ≠ fit 256 0xFF#8 bytes) :
    s.copyDone src dst bytes (some bad) =
      { s with store := { s.store.markUsed dst with
          mem := Mem.setPage s.store.mem dst (fit 256 0xFF#8 bad), op := some (.copyVoid dst) } } := by
  unfold State.copyDone
  refine (if_neg hbad).trans ?_
  unfold State.mapStore
  dsimp only
  rw [markUsed_withMem]
  rfl

theorem closeCompaction_none {st : Store} {c : Compaction} (h : st.firstBlock .openBlock = none) :
    st.closeCompaction c =
      { st with blocks := st.blocks.set c.target (if (st.fillPoint c.target).isSome then .openBlock else .filled),
                op := some (.erase c.victim) } := by
  unfold Store.closeCompaction
  rw [h]
  rfl

theorem closeCompaction_some {st : Store} {c : Compaction} {o : Nat} (h : st.firstBlock .openBlock = some o) :
    st.closeCompaction c =
      { st with blocks := (st.blocks.set o .filled).set c.target (if (st.fillPoint c.target).isSome then .openBlock else .filled),
                op := some (.erase c.victim) } := by
  unfold Store.closeCompaction
  rw [h]
  rfl

theorem chooseSpare_some {s : State} {cause b : Nat} (h : s.store.firstBlock .free = some b) :
    s.chooseSpare cause = { s with store := s.store.setBlock b .spare } := by
  unfold State.chooseSpare
  rw [h]
  rfl

theorem chooseSpare_none {s : State} {cause : Nat} (h : s.store.firstBlock .free = none) :
    s.chooseSpare cause =
      ({ s with store := { s.store with degraded := true } } : State).recordFault .degraded (some cause) := by
  unfold State.chooseSpare
  rw [h]
  rfl

/-! ### The end of an erase -/

/-- Events toward both channels, raised twice, are raised once, whatever the store becomes between. -/
theorem raise_twice (s : State) (st : Store) :
    ((({ (s.raise .S .storeFault).raise .A .storeFault with store := st } : State).raise .S .storeFault).raise .A .storeFault) =
      (({ s with store := st } : State).raise .S .storeFault).raise .A .storeFault := by
  have hS := Channel.raise_raise s.chS .S .storeFault
  have hA := Channel.raise_raise s.chA .A .storeFault
  show ({ s with store := st, chS := (s.chS.raise .S .storeFault).raise .S .storeFault,
                 chA := (s.chA.raise .A .storeFault).raise .A .storeFault } : State) = _
  rw [hS, hA]
  rfl

/-- A store with the block's erase ended and read back. -/
def Store.erased (st : Store) (b : Nat) (left : List (Nat × Byte)) : Store :=
  { st with mem := Mem.eraseBlock st.mem b left, op := none, comp := none }

theorem exec_erase {s : State} {b : Nat} {left : List (Nat × Byte)} {c : Instr}
    (h : s.store.op = some (.erase b) ∧ c = .blockEraseDone left ∨
      s.store.op = some (.recoveryErase b) ∧ c = .recoveryEraseDone left) : exec c s = .next (s.eraseDone b left).settle := by
  obtain ⟨hop, rfl⟩ | ⟨hop, rfl⟩ := h
  · show execBlockEraseDone left s = _
    unfold execBlockEraseDone
    rw [hop]
  · show execRecoveryEraseDone left s = _
    unfold execRecoveryEraseDone
    rw [hop]

theorem eraseDone_good {s : State} {b : Nat} {left : List (Nat × Byte)}
    (h : Mem.blockErased (Mem.eraseBlock s.store.mem b left) b = true) :
    s.eraseDone b left =
      { s with store := { s.store with
          mem := Mem.eraseBlock s.store.mem b left, op := none, comp := none,
          used := s.store.used.filter fun p => p / 16 != b, blocks := s.store.blocks.set b .spare } } := if_pos h

theorem eraseDone_bad {s : State} {b : Nat} {left : List (Nat × Byte)}
    (h : Mem.blockErased (Mem.eraseBlock s.store.mem b left) b = false) :
    s.eraseDone b left = ({ s with store := s.store.erased b left } : State).retireBlock b :=
  if_neg (Bool.eq_false_iff.1 h)

/-- The state with the block retired, its mark held and ERASE_FAILED recorded (R71). -/
theorem retireBlock_eq (s : State) (b : Nat) :
    s.retireBlock b =
      (({ s with store := { s.store with
          blocks := s.store.blocks.set b .retired, marksHeld := s.store.marksHeld ++ [b] } } : State).recordFault
        .eraseFailed (some b)).chooseSpare b := rfl

theorem retireBlock_spare {s : State} {b f : Nat}
    (hfree : ({ s.store with blocks := s.store.blocks.set b .retired } : Store).firstBlock .free = some f) :
    s.retireBlock b =
      (({ s with store := { s.store with
          marksHeld := s.store.marksHeld ++ [b], blocks := (s.store.blocks.set b .retired).set f .spare,
          fault := some (match s.store.fault with
            | none => { kind := .eraseFailed, block := some b, uptime := s.owner.uptime, more := false }
            | some x => { x with more := true }) } } : State).raise .S .storeFault).raise .A .storeFault := by
  rw [retireBlock_eq, chooseSpare_some (b := f) hfree]
  rfl

/-- With no FREE block the second fault joins the first (R71, R72). -/
theorem retireBlock_degraded {s : State} {b : Nat}
    (hfree : ({ s.store with blocks := s.store.blocks.set b .retired } : Store).firstBlock .free = none) :
    s.retireBlock b =
      (({ s with store := { s.store with
          marksHeld := s.store.marksHeld ++ [b], blocks := s.store.blocks.set b .retired, degraded := true,
          fault := some (match s.store.fault with
            | none => { kind := .eraseFailed, block := some b, uptime := s.owner.uptime, more := true }
            | some x => { x with more := true }) } } : State).raise .S .storeFault).raise .A .storeFault := by
  rw [retireBlock_eq, chooseSpare_none hfree, recordFault_eq, recordFault_eq]
  refine (raise_twice
    { s with store := { s.store with
        blocks := s.store.blocks.set b .retired, marksHeld := s.store.marksHeld ++ [b],
        fault := some (match s.store.fault with
          | none => { kind := .eraseFailed, block := some b, uptime := s.owner.uptime, more := false }
          | some x => { x with more := true }) } }
    { s.store with
        blocks := s.store.blocks.set b .retired, marksHeld := s.store.marksHeld ++ [b], degraded := true,
        fault := some (match s.store.fault with
          | none => { kind := .eraseFailed, block := some b, uptime := s.owner.uptime, more := true }
          | some x => { x with more := true }) }).subst (motive := fun x => _ = x) ?_
  cases s.store.fault <;> rfl

/-- Settles O32: each step of a compaction and of an erase by its cases; a copy is judged as its source is. -/
theorem compactionCopiesAndErases : Obligations.CompactionCopiesAndErases := by
  refine ⟨fun s u src dst bytes => ⟨fun hop => ⟨fun hu => ?_, fun bad hbad hu => ?_⟩, fun c hcomp => ⟨?_, ?_, ?_, ?_⟩⟩,
    fun s u b left c hcase => ⟨fun hgood hu => ?_, fun f hbad hfree hu => ?_, fun hbad hfree hu => ?_, blockErased_clean _ b⟩,
    fun page g hlen hgood => parsePage_copy hlen hgood⟩
  · rw [exec_copyProgramDone none hop, copyDone_good, hu]
    rfl
  · rw [exec_copyProgramDone _ hop, copyDone_bad hbad, hu]
  · exact fun p d hlive hfill => copyNext_copy hcomp hlive hfill
  · intro hlive hopen
    rw [copyNext_close hcomp hlive, closeCompaction_none hopen]
  · intro o hlive hopen
    rw [copyNext_close hcomp hlive, closeCompaction_some hopen]
  · rintro p bs hlive hfill rfl
    rw [copyNext_abandon hcomp hlive hfill]
    refine ⟨fun f hfree => ?_, fun hfree => ?_⟩
    · exact chooseSpare_some (s := { s with store := { s.store with
        blocks := s.store.blocks.set c.target .filled, comp := none, op := none } }) hfree
    · exact chooseSpare_none (s := { s with store := { s.store with
        blocks := s.store.blocks.set c.target .filled, comp := none, op := none } }) hfree
  · rw [exec_erase hcase, eraseDone_good hgood, hu]
  · rw [exec_erase hcase, eraseDone_bad hbad, retireBlock_spare (s := { s with store := s.store.erased b left }) hfree, hu]
    rfl
  · rw [exec_erase hcase, eraseDone_bad hbad, retireBlock_degraded (s := { s with store := s.store.erased b left }) hfree, hu]
    rfl

end Sys2Proof.Machine

/-! Owner verification: attempts, stretches, SET VERIFIER and OWNER RESET (O33 to O36). -/
namespace Sys2Proof.Machine

/-! ### VERIFY OWNER (R105, R106) -/

theorem parseVerifyOwner_body {n : Byte} {cand : Bytes} (hlow : 1 ≤ cand.length) (hhigh : cand.length ≤ 64) :
    parseVerifyOwner (n :: byte cand.length :: cand) = some (n.toNat, cand) :=
  (layout_ends (parseVerifyOwner_layout n cand hlow hhigh) 0#8).1

theorem userSlot_of {n : Nat} (hlow : 1 ≤ n) (hhigh : n ≤ 254) : userSlot n = true := by simp [userSlot, hlow, hhigh]

theorem kind_of_goodVerifier {r : Rec} (h : goodVerifier r = true) : r.kind = .verifier := by
  unfold goodVerifier at h
  simp only [Bool.and_eq_true, beq_iff_eq] at h
  exact h.1.1

section VerifyOwner
variable {s : State} {n : Nat} {cand : Bytes} (huser : userSlot n = true)
include huser

theorem verifyOwner_denied (h : s.granted .A (some .owner) = false) : s.verifyOwner n cand = s.refuse .A .notPermitted := by
  unfold State.verifyOwner
  simp only [huser, h, Bool.not_true, Bool.not_false, Bool.false_eq_true, if_false, if_true]

variable (hgranted : s.granted .A (some .owner) = true)
include hgranted

theorem verifyOwner_empty (h : s.store.keptRec n = none) : s.verifyOwner n cand = s.refuse .A .noSlot := by
  unfold State.verifyOwner
  simp only [huser, hgranted, h, Bool.not_true, Bool.false_eq_true, if_false]

theorem verifyOwner_of_record {r : Rec} (h : s.store.keptRec n = some r) :
    s.verifyOwner n cand =
      if goodVerifier r = false ∨ r.domain ≠ some .owner then s.refuse .A .slotKind
      else if lockedOut (verifierParams r.payload) (s.holdOf n).count then s.reply .A .lockedOut [byte (s.holdOf n).count]
      else s.attempt n cand r := by
  unfold State.verifyOwner
  simp only [huser, hgranted, h, Bool.not_true, Bool.false_eq_true, if_false, Bool.or_eq_true, Bool.not_eq_true', bne_iff_ne]

end VerifyOwner

/-- An attempt after the decay of its entry: the hold-off, or the pre-charge. -/
theorem attempt_eq {s : State} {n : Nat} {cand : Bytes} {r : Rec} {p : Params} {e : HoldEntry}
    (hp : p = verifierParams r.payload) (he : e = decayed p s.owner.uptime (s.holdOf n)) :
    s.attempt n cand r =
      if s.owner.uptime < e.holdUntil then
        (s.setHold e).reply .A .throttled (be 4 (e.holdUntil - s.owner.uptime) ++ [byte e.count])
      else
        ((s.setHold e).setWork .A (.verifyPrecharge n cand (s.owner.entry n))).fileJob
          (prechargeJob n (prechargeRecord r (min 255 (e.count + 1)) s.owner.uptime)) := by
  subst hp he
  unfold State.attempt State.applyDecay
  have hslot : (decayed (verifierParams r.payload) s.owner.uptime (s.holdOf n)).slot = n := by
    rw [decayed_slot, holdOf_slot]
  simp only [holdOf_setHold _ _ _ hslot]
  rfl

/-! ### The end of a pre-charge (R106, R107) -/

theorem precharge_committed {s u : State} {j : WriteJob} {p : Params} {c : Nat} (g : Word) (hf : j.filer = .precharge)
    (hlive : j.orphan = false) (hp : p = verifierParams j.record.payload) (hc : c = verifierCount j.record.payload)
    (hu : u = s.setHold { slot := j.slot, count := c, holdUntil := min 4294967295 (s.owner.uptime + holdOff p c),
                          lastEvent := s.owner.uptime }) :
    s.deliver j (.commit g) =
      if lockedOut p c then u.endGrant.reply .A .mismatch (be 4 0 ++ [byte c, 1#8])
      else
        match s.chA.work with
        | .verifyPrecharge slot cand _ =>
          (u.setWork .A (.verifyStretch slot j.record)).fileClaim .A (.stretch (verifierSalt j.record.payload) cand)
        | _ => u := by
  subst hp hc hu
  rw [deliver_precharge hf]
  exact if_neg (by simp [hlive])

/-- Settles O33: the checks in their order, and the commit or the failure of the pre-charge. -/
theorem attemptsAreChargedFirst : Obligations.AttemptsAreChargedFirst := by
  refine ⟨fun s n cand hquiet hlow hhigh hreq hn1 hn2 => ?attempt, fun s u j g p c hf hlive hp hc hu => ⟨fun hlocked => ?_, ?_⟩,
    fun s j st hf hlive => ?_⟩
  case attempt =>
    have huser := userSlot_of hn1 hn2
    have hexec : exec .verifyOwner s = .next (s.verifyOwner n.toNat cand).settle := by
      refine (serveWork_of_request hreq _).trans ?_
      rw [parseVerifyOwner_body hlow hhigh]
    rw [hexec]
    refine ⟨fun hdenied => ?_, fun hgranted => ⟨fun hnone => ?_, fun r hkept => ⟨fun hkind => ?_, ?_⟩⟩⟩
    · rw [verifyOwner_denied huser hdenied, settle_refuse hquiet]
    · rw [verifyOwner_empty huser hgranted hnone, settle_refuse hquiet]
    · have hbad : goodVerifier r = false := Bool.eq_false_iff.2 fun h => hkind (kind_of_goodVerifier h)
      rw [verifyOwner_of_record huser hgranted hkept, if_pos (.inl hbad), settle_refuse hquiet]
    · intro p e hgood hdomain hp he
      rw [verifyOwner_of_record huser hgranted hkept, if_neg (by simp [hgood, hdomain]), ← hp, ← he]
      constructor
      · intro hlocked
        rw [if_pos ((lockedOut_iff _ _).2 hlocked), settle_reply hquiet]
      · intro e' hopen he'
        rw [if_neg (by simp [(lockedOut_false_iff _ _).2 hopen]), attempt_eq hp (he'.trans (by rw [he]))]
        have hq : (s.setHold e').quiet = true := by simpa using hquiet
        constructor
        · intro hheld
          rw [if_pos hheld, settle_reply hq]
        · intro st pg hpast hidle htop hplace
          rw [if_neg (by omega)]
          have hq' : ((s.setHold e').setWork .A (.verifyPrecharge n.toNat cand (s.owner.entry n.toNat))).quiet = true := by
            simpa using hquiet
          have hcheck : s.store.takeCheck s.guard (prechargeJob n.toNat (prechargeRecord r (min 255 (e'.count + 1)) s.owner.uptime)) =
              none := takeCheck_passes hidle (.inl rfl) (fun h => nomatch h) htop
          refine congrArg _ ((State.settle_job _ _ _ st pg hq' hidle hplace hcheck rfl hq' rfl).trans ?_)
          rw [hp]
          rfl
  · rw [precharge_committed g hf hlive hp hc hu, if_pos ((lockedOut_iff _ _).2 hlocked), endGrant_match]
    subst hu
    rfl
  · intro slot cand before hopen hwork
    rw [precharge_committed g hf hlive hp hc hu, if_neg (by simp [(lockedOut_false_iff _ _).2 hopen]), hwork]
    rfl
  · rw [deliver_precharge hf]
    exact if_neg (by simp [hlive])

/-! ### The end of a STRETCH (R107, R108, R115) -/

theorem execStretchEnd_of {s : State} {who : Claimant} {salt cand : Bytes}
    (hrun : s.engine.running = some { who := who, job := .stretch salt cand, dropped := false }) :
    exec .stretchEnd s = .next (s.engineFreed.stretchEnded (stretchOf salt cand)).settle := by
  show execStretchEnd s = _
  unfold execStretchEnd
  rw [hrun]
  rfl

theorem stretchEnded_attempt {s : State} {slot : Nat} {r : Rec} (v : Bytes) (hwork : s.chA.work = .verifyStretch slot r) :
    s.stretchEnded v = s.verifyStretched slot r v := by
  have hstage : s.work .A = .verifyStretch slot r := hwork
  unfold State.stretchEnded
  simp only [hstage]

theorem stretchEnded_verifier {s : State} {slot : Nat} {salt : Bytes} {p : Params} {g : Option Word} (v : Bytes)
    (hwork : s.chA.work = .verifierStretch slot salt p g) :
    s.stretchEnded v =
      (s.setWork .A (.verifierStore p)).fileJob
        { slot := slot, record := verifierRecord salt v p, expected := g, writer := .channelRequest, chan := some .A,
          filer := .setVerifier, orphan := false } := by
  have hstage : s.work .A = .verifierStretch slot salt p g := hwork
  unfold State.stretchEnded
  simp only [hstage]

/-- Settles O34: a match, a mismatch, and the verifier of SET VERIFIER. -/
theorem stretchDecidesTheAttempt : Obligations.StretchDecidesTheAttempt := by
  intro s u who salt cand hrun hu
  rw [execStretchEnd_of hrun, ← hu]
  have hwork : u.chA.work = s.chA.work := by rw [hu]; rfl
  refine ⟨fun slot r p hstage hp => ⟨fun hmatch h v hh hv => ?_, fun hother => ?_⟩, fun slot sl p g hstage => ?_⟩
  · rw [stretchEnded_attempt _ (hwork.trans hstage)]
    unfold State.verifyStretched
    refine congrArg (fun x => Host.Outcome.next (State.settle x)) ((if_pos hmatch).trans ?_)
    subst hu hh hv hp
    rfl
  · rw [stretchEnded_attempt _ (hwork.trans hstage)]
    unfold State.verifyStretched
    refine congrArg (fun x => Host.Outcome.next (State.settle x)) ((if_neg hother).trans ?_)
    rw [endGrant_match]
    subst hu hp
    rfl
  · rw [stretchEnded_verifier _ (hwork.trans hstage)]
    rfl

/-! ### SET VERIFIER (R114, R115) -/

theorem judgeVerifier_false {s : State}
    (h : s.granted .A (some .owner) = false ∨ s.owner.grant = none ∧ s.store.anyVerifier = true) :
    s.judgeVerifier = (false, s) := by
  unfold State.judgeVerifier
  obtain h | ⟨hnone, hany⟩ := h
  · simp [h]
  · cases s.granted .A (some .owner) <;> simp [hnone, hany]

theorem useGrant_none {s : State} (h : s.owner.grant = none) : s.useGrant = s := by
  unfold State.useGrant
  rw [h]

theorem judgeVerifier_true {s : State} (hgranted : s.granted .A (some .owner) = true)
    (h : s.owner.grant.isSome = true ∨ s.store.anyVerifier = false) : s.judgeVerifier = (true, s.afterUse true) := by
  show _ = (true, s.useGrant)
  unfold State.judgeVerifier
  rw [if_pos hgranted]
  cases hgrant : s.owner.grant with
  | some g => rfl
  | none =>
    have hnever : s.store.anyVerifier = false := by simpa [hgrant] using h
    rw [useGrant_none hgrant, hnever]
    rfl

@[simp] theorem useGrant_holdOf (s : State) (n : Nat) : s.useGrant.holdOf n = s.holdOf n := by
  unfold State.useGrant
  cases s.owner.grant <;> rfl

theorem afterUse_verifierLocked (s : State) (b : Bool) (n : Nat) : (s.afterUse b).verifierLocked n = s.verifierLocked n := by
  unfold State.verifierLocked
  rw [afterUse_store]
  cases b with
  | false => rfl
  | true => simp only [State.afterUse, if_true, useGrant_holdOf]

theorem verifierLocked_locked {s : State} {n : Nat} {r : Rec} (hkept : s.store.keptRec n = some r)
    (hgood : goodVerifier r = true) (hlocked : lockedOut (verifierParams r.payload) (s.holdOf n).count = true) :
    s.verifierLocked n = some .wrongState := by
  unfold State.verifierLocked
  simp only [hkept, kind_of_goodVerifier hgood, hgood, hlocked, if_true]

theorem verifierLocked_passes {s : State} {n : Nat}
    (h : ∀ r p, s.store.keptRec n = some r → p = verifierParams r.payload → r.kind = .verifier →
      goodVerifier r = true ∧ ¬ (p.L ≠ 0 ∧ p.L ≤ (s.holdOf n).count)) : s.verifierLocked n = none := by
  unfold State.verifierLocked
  cases hkept : s.store.keptRec n with
  | none => rfl
  | some r =>
    by_cases hkind : r.kind = .verifier
    · obtain ⟨hgood, hopen⟩ := h r _ hkept rfl hkind
      simp only [hkind, hgood, (lockedOut_false_iff _ _).2 hopen, if_true, Bool.false_eq_true, if_false]
    · simp only [hkind, if_false]

theorem execRandomEnd_of {s : State} {who : Claimant} {k : Nat} (healthy : Bool) (drawn : Bytes)
    (hrun : s.engine.running = some { who := who, job := .random k, dropped := false }) :
    exec (.randomEnd healthy drawn) s = .next (s.engineFreed.randomEnded healthy (fit k 0#8 drawn)).settle := by
  show execRandomEnd healthy drawn s = _
  unfold execRandomEnd
  rw [hrun]
  rfl

theorem randomEnded_of {s : State} {slot : Nat} {pw : Bytes} {p : Params} {g : Option Word} (healthy : Bool) (drawn : Bytes)
    (hwork : s.chA.work = .verifierRandom slot pw p g) :
    s.randomEnded healthy drawn =
      if healthy then (s.setWork .A (.verifierStretch slot drawn p g)).fileClaim .A (.stretch drawn pw)
      else s.refuse .A .rngFault := by
  have hstage : s.work .A = .verifierRandom slot pw p g := hwork
  unfold State.randomEnded
  simp only [hstage]

/-- Settles O35: the judgment, the lockout, the draw of the salt, and its end. -/
theorem setVerifierDrawsASalt : Obligations.SetVerifierDrawsASalt := by
  refine ⟨fun s body a hquiet hreq hparse hlow hhigh => ?_, fun s who drawn pw slot p g hrun hwork => ⟨fun hlen => ?_, ?_⟩⟩
  · have hexec : exec .setVerifier s = .next (s.setVerifier a).settle := by
      refine (serveWork_of_request hreq _).trans ?_
      rw [hparse]
    have hset : s.setVerifier a =
        match s.judgeVerifier with
        | (false, s) => s.refuse .A .notPermitted
        | (true, s) =>
          match s.verifierLocked a.slot with
          | some st => s.refuse .A st
          | none => (s.setWork .A (.verifierRandom a.slot a.password a.params a.expected)).fileClaim .A (.random 16) :=
      if_neg (by simp [userSlot_of hlow hhigh])
    rw [hexec, hset]
    have hq : (s.afterUse true).quiet = true := by simpa using hquiet
    constructor
    · intro hdenied
      rw [judgeVerifier_false hdenied]
      exact congrArg _ (settle_refuse hquiet _ _)
    · intro hgranted hclaim
      rw [judgeVerifier_true hgranted hclaim]
      refine ⟨fun r p hkept hgood hp hlocked => ?_, fun hpass hfree => ?_⟩
      · subst hp
        have h := verifierLocked_locked hkept hgood ((lockedOut_iff _ _).2 hlocked)
        simp only [afterUse_verifierLocked, h]
        exact congrArg _ (settle_refuse hq _ _)
      · simp only [afterUse_verifierLocked, verifierLocked_passes hpass]
        refine congrArg _ ((State.settle_claim _ .A (.random 16) (.random 16) (by simpa using hquiet) (by simpa using hfree)
          rfl).trans ?_)
        have hengine : ((s.afterUse true).setWork .A (.verifierRandom a.slot a.password a.params a.expected)).engine = s.engine := by
          simp
        rw [hengine]
  · have hdrawn : fit 16 0#8 drawn = drawn := by
      rw [fit_take 16 16 drawn 0#8 (by omega), List.take_of_length_le (by omega)]
    rw [execRandomEnd_of _ _ hrun, hdrawn, randomEnded_of _ _ (s := s.engineFreed) hwork]
    rfl
  · rw [execRandomEnd_of _ _ hrun, randomEnded_of _ _ (s := s.engineFreed) hwork]
    rfl

/-! ### OWNER RESET (R117, R118) -/

/-- The level of RCV_N is no part of what the turns look at. -/
theorem rcv_quiet (s : State) (rcv : Bool) : ({ s with rcv := rcv } : State).quiet = s.quiet := by
  apply State.quiet_congr <;> rfl

theorem execOwnerReset_of_request {s : State} (rcv : Bool) (hreq : s.request .S 0x34#8 = some []) :
    exec (.ownerReset rcv) s =
      .next (if s.boot.state ≠ .released ∧ rcv = true then
          ((({ s with rcv := rcv } : State).setWork .S .resetEpoch).fileOta (.advance .ownerEpoch (s.ota.epoch + 1) .ownerReset))
        else ({ s with rcv := rcv } : State).refuse .S .wrongState).settle := by
  refine (serveWork_of_request hreq _).trans ?_
  simp only [State.emptyBody, State.inBootPhase, Bool.and_eq_true, bne_iff_ne]

theorem takeOta_advance {s : State} {k : Counter} {target : Nat} {filer : AdvanceFor} (hbelow : s.ota.value k < min target k.top)
    (hopen : s.ota.cells.locked 3 = false) :
    s.takeOta (.advance k target filer) = s.otaAt (.advance k target filer) (s.ota.value k) := by
  refine (if_neg (by omega)).trans (if_neg ?_)
  rw [show OtaOp.page (.advance k target filer) = 3 from rfl, hopen]
  exact Bool.false_ne_true

/-- A record that the walk of OWNER RESET tombstones, by kind and domain (R118). -/
theorem resetTarget_iff (r : Rec) :
    resetTarget r = true ↔
      (r.kind = .verifier ∨ r.kind = .secret ∨ r.kind = .linkKey ∨ r.kind = .signingKey) ∧
      (r.domain = some .owner ∨ r.domain = some .network ∨ r.domain = some .client) := by
  simp [resetTarget, or_assoc]

section Walk
variable {st : Store} {target : Nat → Prop}
  (htarget : ∀ n, target n ↔ 1 ≤ n ∧ n ≤ 254 ∧ ∃ r, st.liveRec n = some r ∧
      (r.kind = .verifier ∨ r.kind = .secret ∨ r.kind = .linkKey ∨ r.kind = .signingKey) ∧
      (r.domain = some .owner ∨ r.domain = some .network ∨ r.domain = some .client))
include htarget

theorem target_iff_any (n : Nat) : target n ↔ (1 ≤ n ∧ n ≤ 254) ∧ (st.liveRec n).any resetTarget = true := by
  rw [htarget, ← and_assoc]
  refine and_congr_right fun _ => ?_
  cases st.liveRec n with
  | none => simp
  | some r => simp [resetTarget_iff]

/-- The next slot of the walk is its lowest target from the start on. -/
theorem resetNext_target {start n : Nat} (hn : target n) (hstart : start ≤ n)
    (hfirst : ∀ k, start ≤ k → k < n → ¬ target k) : st.resetNext start = some n := by
  obtain ⟨⟨hlow, hhigh⟩, hany⟩ := (target_iff_any htarget n).1 hn
  unfold Store.resetNext
  have hfind : ((List.range 254).find? fun i => decide (start ≤ i + 1) && (st.liveRec (i + 1)).any resetTarget) = some (n - 1) := by
    rw [List.find?_range_eq_some]
    refine ⟨?_, by simp; omega, fun k hk => ?_⟩
    · rw [Nat.sub_add_cancel hlow, hany]
      simpa using hstart
    · by_cases hk' : start ≤ k + 1
      · have hnot := hfirst (k + 1) hk' (by omega)
        rw [target_iff_any htarget] at hnot
        have hnone : (st.liveRec (k + 1)).any resetTarget = false :=
          Bool.eq_false_iff.2 fun h => hnot ⟨⟨by omega, by omega⟩, h⟩
        simp [hnone]
      · simp [hk']
  rw [List.find?_map]
  show (((List.range 254).find? fun i => decide (start ≤ i + 1) && (st.liveRec (i + 1)).any resetTarget).map (· + 1)) = _
  rw [hfind]
  exact congrArg some (Nat.sub_add_cancel hlow)

theorem resetNext_ends {start : Nat} (h : ∀ n, target n → n < start) : st.resetNext start = none := by
  unfold Store.resetNext
  rw [List.find?_eq_none]
  intro n hn
  obtain ⟨i, hi, rfl⟩ := List.mem_map.1 hn
  have hi' : i < 254 := by simpa using hi
  intro hfound
  simp only [Bool.and_eq_true, decide_eq_true_eq] at hfound
  obtain ⟨hstart, hany⟩ := hfound
  have := h (i + 1) ((target_iff_any htarget _).2 ⟨⟨by omega, by omega⟩, hany⟩)
  omega

end Walk

theorem deliver_ownerReset {s : State} {j : WriteJob} (h : j.filer = .ownerReset) (o : JobEnd) : s.deliver j o = s.resetJobEnded o := by
  unfold State.deliver; rw [h]

/-- Settles O36: the take, the end of the advance, the walk's next slot or its reply, and the end of a tombstone job. -/
theorem ownerResetNeedsTheButton : Obligations.OwnerResetNeedsTheButton := by
  refine ⟨fun s rcv hquiet hreq => ⟨fun hrefused => ?_, fun hphase hbutton hfree hbelow hopen => ?_⟩, fun s st hwork => ?_,
    fun s start done left out target htarget => ⟨fun n hn hstart hfirst => ?_, fun hends => ?_⟩,
    fun s j n done left out st g hf hwork => ?_⟩
  · have hno : ¬ (s.boot.state ≠ .released ∧ rcv = true) := by
      obtain h | h := hrefused <;> simp [h]
    rw [execOwnerReset_of_request rcv hreq, if_neg hno, settle_refuse ((rcv_quiet s rcv).trans hquiet)]
  · subst hbutton
    rw [execOwnerReset_of_request true hreq, if_pos ⟨hphase, rfl⟩]
    refine congrArg _ ((State.settle_ota (({ s with rcv := true } : State).setWork .S .resetEpoch) _ s.ota.epoch ?_ hfree ?_).trans rfl)
    · rw [State.setWork_quiet, rcv_quiet, hquiet]
    · refine takeOta_advance ?_ hopen
      show s.ota.epoch < min (s.ota.epoch + 1) 64
      omega
  · have hstage : s.work .S = .resetEpoch := hwork
    unfold State.advanceEnded
    simp only [hstage]
  · unfold State.resetWalkFrom
    simp only [resetNext_target htarget hn hstart hfirst]
    rfl
  · unfold State.resetWalkFrom
    simp only [resetNext_ends htarget hends]
    rfl
  · have hstage : s.work .S = .resetWalk n done left out := hwork
    rw [deliver_ownerReset hf, deliver_ownerReset hf, deliver_ownerReset hf]
    unfold State.resetJobEnded
    rw [hstage]
    refine ⟨rfl, rfl, fun hother => ?_⟩
    cases st
    case wrongState => exact absurd rfl hother
    all_goals rfl

end Sys2Proof.Machine

/-! Keys and measurement: OPEN KEY, the uses of a key, EXTEND and QUOTE, and the ends of their jobs (O37 to O41). -/
namespace Sys2Proof.Machine

/-! ### Parts that no turn looks at -/

/-- The context table is no part of what the turns look at. -/
theorem ctx_quiet (s : State) (t : CtxTable) : ({ s with ctx := t } : State).quiet = s.quiet := by
  apply State.quiet_congr <;> rfl

@[simp] theorem afterUse_ctx (s : State) (b : Bool) : (s.afterUse b).ctx = s.ctx := by rw [afterUse_shape]

@[simp] theorem afterUse_meas (s : State) (b : Bool) : (s.afterUse b).meas = s.meas := by rw [afterUse_shape]

@[simp] theorem afterUse_boot (s : State) (b : Bool) : (s.afterUse b).boot = s.boot := by rw [afterUse_shape]

/-! ### OPEN KEY (R121 to R123) -/

theorem openable_false_of_kind {r : Rec} (h : r.kind = .verifier ∨ r.kind = .trustAnchor) : openable r = false := by
  unfold openable
  obtain h | h := h <;> rw [h]

theorem judgeOpen_denied {s : State} {ch : Chan} {r : Rec} (hneeds : r.needsOwner = true)
    (h : ch = .S ∨ s.owner.grant = none) : s.judgeOpen ch r = (false, s) := by
  unfold State.judgeOpen
  rw [if_pos hneeds]
  cases ch with
  | S => rfl
  | A =>
    have hnone : s.owner.grant = none := h.resolve_left (by decide)
    simp [hnone]

theorem judgeOpen_passes {s : State} {ch : Chan} {r : Rec} (h : r.needsOwner = true → ch = .A ∧ s.owner.grant.isSome = true) :
    s.judgeOpen ch r = (true, s.afterUse r.needsOwner) := by
  unfold State.judgeOpen State.afterUse
  cases hneeds : r.needsOwner with
  | false => rfl
  | true =>
    obtain ⟨rfl, hactive⟩ := h hneeds
    simp [hactive]

section OpenKey
variable {s : State} {ch : Chan} {n : Nat}

theorem openKey_empty (h : s.store.keptRec n = none) : s.openKey ch n = s.refuse ch .noSlot := by
  unfold State.openKey
  simp only [h]

variable {r : Rec} (hkept : s.store.keptRec n = some r)
include hkept

theorem openKey_kind (h : openable r = false) : s.openKey ch n = s.refuse ch .slotKind := by
  unfold State.openKey
  simp only [hkept, h, Bool.not_false, if_true]

theorem openKey_denied (hopen : openable r = true)
    (h : s.granted ch r.domain = false ∨ s.judgeOpen ch r = (false, s)) : s.openKey ch n = s.refuse ch .notPermitted := by
  unfold State.openKey
  simp only [hkept, hopen, Bool.not_true, Bool.false_eq_true, if_false]
  cases hgranted : s.granted ch r.domain with
  | false => rfl
  | true =>
    have hjudge : s.judgeOpen ch r = (false, s) := h.resolve_left (by simp [hgranted])
    simp only [hjudge, Bool.not_true, Bool.false_eq_true, if_false]

/-- OPEN KEY past its checks: an unbound key is loaded, a bound one has its composite claimed. -/
theorem openKey_passes (hopen : openable r = true) (hgranted : s.granted ch r.domain = true) {b : Bool}
    (hjudge : s.judgeOpen ch r = (true, s.afterUse b)) :
    s.openKey ch n =
      if r.mask = 0#8 then (s.afterUse b).loadContext ch n (s.store.gen n) r
      else ((s.afterUse b).setWork ch .openKey).fileClaim (Chan.claimant ch) (.digestComposite n (s.store.gen n) r) := by
  unfold State.openKey
  simp only [hkept, hopen, hgranted, hjudge, Bool.not_true, Bool.false_eq_true, if_false, afterUse_store]

end OpenKey

theorem loadContext_of_load {s : State} {ch : Chan} {n : Nat} {g : Word} {r : Rec} {i : Nat} {evicted : Bool} {t : CtxTable}
    {h : Handle} (hchoose : s.ctx.choose = some (i, evicted)) (hload : s.ctx.load i ch n g r = (t, h)) :
    s.loadContext ch n g r = ({ s with ctx := t } : State).reply ch .ok (openReply h g r evicted) := by
  unfold State.loadContext
  simp only [hchoose, hload]

theorem execOpenKey_of_request {s : State} {ch : Chan} {n : Byte} (hreq : s.request ch 0x40#8 = some [n])
    (hlow : 1 ≤ n.toNat) (hhigh : n.toNat ≤ 254) : exec (.openKey ch) s = .next (s.openKey ch n.toNat).settle := by
  refine (serveWork_of_request hreq _).trans ?_
  show Host.Outcome.next (State.settle (if userSlot n.toNat = true then s.openKey ch n.toNat else s.refuse ch .badArgument)) = _
  rw [if_pos (userSlot_of hlow hhigh)]

/-- Settles O37: the checks in their order, a load into a FREE entry or over the evictee, and the claim of the composite. -/
theorem openKeyLoadsOrCompares : Obligations.OpenKeyLoadsOrCompares := by
  intro ch s n hquiet hreq hlow hhigh
  rw [execOpenKey_of_request hreq hlow hhigh]
  refine ⟨fun hnone => ?_, fun r hkept => ⟨fun hkind => ?_, fun hopen hdenied => ?_, fun hopen hgranted => ⟨fun hneeds h => ?_, ?_⟩⟩⟩
  · rw [openKey_empty hnone, settle_refuse hquiet]
  · rw [openKey_kind hkept (openable_false_of_kind hkind), settle_refuse hquiet]
  · rw [openKey_denied hkept hopen (.inl hdenied), settle_refuse hquiet]
  · rw [openKey_denied hkept hopen (.inr (judgeOpen_denied hneeds h)), settle_refuse hquiet]
  · intro c' hneeds hc'
    rw [openKey_passes hkept hopen hgranted (judgeOpen_passes hneeds)]
    have hq : (s.afterUse r.needsOwner).quiet = true := by simpa using hquiet
    refine ⟨fun i ep hmask hi hcounter hentry hlower => ?_, fun i ep c hmask hlen hcounter hloaded hentry hpinned hmin => ?_,
      fun hmask hfree => ?_⟩
    · have hchoose : (s.afterUse r.needsOwner).ctx.choose = some (i, false) := by
        rw [afterUse_ctx]
        exact chooseEntry_free _ i ep hi hentry hlower
      have hload := loadEntry_eq (s.afterUse r.needsOwner).ctx i ch n.toNat (s.store.gen n.toNat) r ep (by simpa using hcounter)
        { epoch := ep, ctx := none } (by simpa using hentry) rfl
      rw [if_pos hmask, loadContext_of_load hchoose hload, settle_reply ((ctx_quiet _ _).trans hq), afterUse_ctx, hc', hmask]
      simp only [openReply, hmask]
      rfl
    · have hchoose : (s.afterUse r.needsOwner).ctx.choose = some (i, true) := by
        rw [afterUse_ctx]
        exact chooseEntry_evict _ i ep c hlen hloaded hentry hpinned hmin
      have hload := loadEntry_eq (s.afterUse r.needsOwner).ctx i ch n.toNat (s.store.gen n.toNat) r (ep + 1#8) (by simpa using hcounter)
        { epoch := ep, ctx := some c } (by simpa using hentry) rfl
      rw [if_pos hmask, loadContext_of_load hchoose hload, settle_reply ((ctx_quiet _ _).trans hq), afterUse_ctx, hc', hmask]
      simp only [openReply, hmask]
      rfl
    · rw [if_neg hmask]
      refine congrArg _ ((State.settle_claim _ (Chan.claimant ch) _ _ (by simpa using hq) (by simpa using hfree) rfl).trans ?_)
      have hengine : ((s.afterUse r.needsOwner).setWork ch .openKey).engine = s.engine := by simp
      have hmeas : ((s.afterUse r.needsOwner).setWork ch .openKey).meas = s.meas := by simp
      rw [← hengine, ← hmeas]
      cases ch <;> rfl

/-! ### The uses of a key (R127 to R129) -/

section JudgeUse
variable {t : CtxTable} {ch : Chan} {n : Nat} {ep : Byte} {kind : Kind} {bit : Nat}

theorem judgeUse_stale (h : ∀ x, t.entries[n]? = some { epoch := ep, ctx := some x } → x.owner ≠ ch) :
    t.judgeUse ch { entry := n, epoch := ep } kind bit = .inl .staleHandle := by
  unfold CtxTable.judgeUse
  rw [goodHandle_none _ _ _ _ h]

variable {x : Ctx} (hentry : t.entries[n]? = some { epoch := ep, ctx := some x }) (howner : x.owner = ch)
include hentry howner

theorem judgeUse_kind (h : x.kind ≠ kind) : t.judgeUse ch { entry := n, epoch := ep } kind bit = .inl .slotKind := by
  unfold CtxTable.judgeUse
  rw [goodHandle_some _ _ _ _ _ hentry howner]
  exact if_neg h

theorem judgeUse_flag (h : x.kind = kind) (hflag : x.flags.getLsbD bit = false) :
    t.judgeUse ch { entry := n, epoch := ep } kind bit = .inl .notPermitted := by
  unfold CtxTable.judgeUse
  rw [goodHandle_some _ _ _ _ _ hentry howner]
  exact (if_pos h).trans (if_neg (by simp [hflag]))

theorem judgeUse_passes (h : x.kind = kind) (hflag : x.flags.getLsbD bit = true) :
    t.judgeUse ch { entry := n, epoch := ep } kind bit = .inr x := by
  unfold CtxTable.judgeUse
  rw [goodHandle_some _ _ _ _ _ hentry howner]
  exact (if_pos h).trans (if_pos hflag)

end JudgeUse

/-- A use's notes on a state where it waits: the grant's last use, and the entry's new stamp. -/
theorem noteUse_eq {s u : State} {ch : Chan} {n : Nat} {ep : Byte} {x : Ctx} (hcounter : s.ctx.counter < 4294967295)
    (hentry : s.ctx.entries[n]? = some { epoch := ep, ctx := some x })
    (hu : u = { s.afterUse x.needsOwner with ctx :=
      { entries := s.ctx.entries.set n { epoch := ep, ctx := some { x with stamp := s.ctx.counter + 1 } },
        counter := s.ctx.counter + 1 } }) :
    (s.setWork ch .use).noteUse { entry := n, epoch := ep } x = u.setWork ch .use := by
  have hstamp := stamp_eq s.ctx n ep x hcounter hentry
  have hnote : (s.setWork ch .use).noteUse { entry := n, epoch := ep } x =
      { (s.setWork ch .use).afterUse x.needsOwner with ctx := ((s.setWork ch .use).afterUse x.needsOwner).ctx.stamp n } := rfl
  rw [hnote, afterUse_ctx, State.setWork_ctx, hstamp, ← setWork_afterUse, hu]
  cases ch <;> rfl

section Uses
variable {s : State} {ch : Chan} {c : Claim} {h : Handle} {kind : Kind} {bit : Nat} (hquiet : s.quiet = true)
  (hfree : s.engine.free = true)
include hquiet hfree

/-- A use that fails a check at its grant. -/
theorem fileUse_refused {st : Status}
    (hgather : ∀ t : State, t.ctx.judgeUse ch h kind bit = .inl st → t.gather ch c = (none, t.refuse ch st))
    (hjudge : s.ctx.judgeUse ch h kind bit = .inl st) : (s.fileUse ch c).settle = s.reply ch st [] := by
  have hchan : (Chan.claimant ch).chan = ch := by cases ch <;> rfl
  have hjudge' : (s.setWork ch .use).ctx.judgeUse ch h kind bit = .inl st := by rw [State.setWork_ctx]; exact hjudge
  refine State.settle_claim_ends _ _ _ _ (by simpa using hquiet) (by simpa using hfree) ?_ (by simpa using hquiet)
  rw [hchan, hgather _ hjudge']
  exact congrArg _ (State.setWork_reply s ch .use st [])

/-- A use with a job, past its checks. -/
theorem fileUse_runs {x : Ctx} {j : Job} {u : State}
    (hgather : ∀ t : State, t.ctx.judgeUse ch h kind bit = .inr x → t.gather ch c = (some j, t.noteUse h x))
    (hjudge : s.ctx.judgeUse ch h kind bit = .inr x) (hnote : (s.setWork ch .use).noteUse h x = u.setWork ch .use)
    (hu : u.quiet = true) (hengine : u.engine = s.engine) :
    (s.fileUse ch c).settle = { u.setWork ch .use with engine := s.engine.runs (Chan.claimant ch) j } := by
  have hchan : (Chan.claimant ch).chan = ch := by cases ch <;> rfl
  have hjudge' : (s.setWork ch .use).ctx.judgeUse ch h kind bit = .inr x := by rw [State.setWork_ctx]; exact hjudge
  refine (State.settle_claim' _ (u.setWork ch .use) _ _ j (by simpa using hquiet) (by simpa using hfree) ?_ (by simpa using hu)
    (by simpa using hengine)).trans ?_
  · rw [hchan, hgather _ hjudge', hnote]
  · rw [State.setWork_engine]

/-- RELEASE SECRET past its checks: the secret without a job. -/
theorem fileUse_releases {x : Ctx} {u : State} (hjudge : s.ctx.judgeUse ch h .secret 2 = .inr x)
    (hnote : (s.setWork ch .use).noteUse h x = u.setWork ch .use) (hu : u.quiet = true) :
    (s.fileUse ch (.releaseCtx h)).settle = u.reply ch .ok (byte x.material.length :: x.material) := by
  have hchan : (Chan.claimant ch).chan = ch := by cases ch <;> rfl
  have hjudge' : (s.setWork ch .use).ctx.judgeUse ch h .secret useRelease = .inr x := by rw [State.setWork_ctx]; exact hjudge
  refine State.settle_claim_ends _ _ _ _ (by simpa using hquiet) (by simpa using hfree) ?_ (by simpa using hu)
  rw [hchan]
  unfold State.gather
  simp only [hjudge', hnote]
  exact congrArg _ (State.setWork_reply _ _ _ _ _)

end Uses

/-- What a use gathers at its grant when a check fails. -/
theorem gather_use_refused {t : State} {ch : Chan} {h : Handle} {c : Claim} {kind : Kind} {bit : Nat} {st : Status}
    (hc : (∃ d, c = .signCtx h d) ∧ kind = .signingKey ∧ bit = 0 ∨ (∃ info, c = .deriveCtx h info) ∧ kind = .linkKey ∧ bit = 1 ∨
      c = .releaseCtx h ∧ kind = .secret ∧ bit = 2)
    (hjudge : t.ctx.judgeUse ch h kind bit = .inl st) : t.gather ch c = (none, t.refuse ch st) := by
  unfold State.gather
  obtain ⟨⟨d, rfl⟩, rfl, rfl⟩ | ⟨⟨info, rfl⟩, rfl, rfl⟩ | ⟨rfl, rfl, rfl⟩ := hc
  · simp only [useSign, hjudge]
  · simp only [useDerive, hjudge]
  · simp only [useRelease, hjudge]

/-- Settles O38: the claim of each use and its checks at the grant. -/
theorem usesOfAKeyAtTheirGrant : Obligations.UsesOfAKeyAtTheirGrant := by
  intro ch s n ep input who hquiet hfree hwho hin hcounter c kind bit hcase
  replace hwho : who = Chan.claimant ch := hwho.trans (by cases ch <;> rfl)
  obtain ⟨claim, hexec, hclaim⟩ : ∃ claim, exec c s = .next (s.fileUse ch claim).settle ∧
      (c = .sign ch ∧ claim = .signCtx { entry := n.toNat, epoch := ep } input ∧ kind = .signingKey ∧ bit = 0 ∨
        c = .derive ch ∧ claim = .deriveCtx { entry := n.toNat, epoch := ep } input ∧ kind = .linkKey ∧ bit = 1 ∨
        c = .releaseSecret ch ∧ claim = .releaseCtx { entry := n.toNat, epoch := ep } ∧ kind = .secret ∧ bit = 2) := by
    obtain ⟨rfl, rfl, rfl, hlen, hreq⟩ | ⟨rfl, rfl, rfl, hlen, hreq⟩ | ⟨rfl, rfl, rfl, rfl, hreq⟩ := hcase
    · refine ⟨_, (serveWork_of_request hreq _).trans ?_, .inl ⟨rfl, rfl, rfl, rfl⟩⟩
      have hparse : parseSign (n :: ep :: input) = some ({ entry := n.toNat, epoch := ep }, input) :=
        (layout_ends (parseSign_layout n ep input hin hlen) 0#8).1
      simp only [hparse]
    · refine ⟨_, (serveWork_of_request hreq _).trans ?_, .inr (.inl ⟨rfl, rfl, rfl, rfl⟩)⟩
      have hparse : parseDerive (n :: ep :: byte input.length :: input) = some ({ entry := n.toNat, epoch := ep }, input) :=
        (layout_ends (parseDerive_layout n ep input hin hlen) 0#8).1
      simp only [hparse]
    · refine ⟨_, (serveWork_of_request hreq _).trans ?_, .inr (.inr ⟨rfl, rfl, rfl, rfl⟩)⟩
      have hparse : parseRelease [n, ep] = some { entry := n.toNat, epoch := ep } := by
        simp [parseRelease, takeHandle_good _ hin, atEnd]
      simp only [hparse]
  have hkinds : (∃ d, claim = .signCtx { entry := n.toNat, epoch := ep } d) ∧ kind = .signingKey ∧ bit = 0 ∨
      (∃ info, claim = .deriveCtx { entry := n.toNat, epoch := ep } info) ∧ kind = .linkKey ∧ bit = 1 ∨
      claim = .releaseCtx { entry := n.toNat, epoch := ep } ∧ kind = .secret ∧ bit = 2 := by
    obtain ⟨-, rfl, hk⟩ | ⟨-, rfl, hk⟩ | ⟨-, rfl, hk⟩ := hclaim
    · exact .inl ⟨⟨_, rfl⟩, hk⟩
    · exact .inr (.inl ⟨⟨_, rfl⟩, hk⟩)
    · exact .inr (.inr ⟨rfl, hk⟩)
  have refused {st : Status} (hjudge : s.ctx.judgeUse ch { entry := n.toNat, epoch := ep } kind bit = .inl st) :
      exec c s = .next (s.reply ch st []) := by
    rw [hexec]
    exact congrArg _ (fileUse_refused hquiet hfree (fun t => gather_use_refused hkinds) hjudge)
  refine ⟨fun hstale => refused (judgeUse_stale hstale), fun x hentry howner => ⟨fun hkind => refused (judgeUse_kind hentry howner hkind),
    fun hkind hflag => refused (judgeUse_flag hentry howner hkind hflag), fun u hkind hflag hu => ?_⟩⟩
  have hjudge := judgeUse_passes hentry howner hkind hflag
  have hnote := noteUse_eq (ch := ch) hcounter hentry hu
  have huq : u.quiet = true := by rw [hu, ctx_quiet]; simpa using hquiet
  have hue : u.engine = s.engine := by rw [hu]; exact afterUse_engine s _
  rw [hexec, hwho]
  refine ⟨?_, ?_, ?_⟩ <;> rintro rfl
  · obtain ⟨-, rfl, rfl, rfl⟩ | ⟨hne, -⟩ | ⟨hne, -⟩ := hclaim
    · refine congrArg _ (fileUse_runs hquiet hfree (fun t ht => ?_) hjudge hnote huq hue)
      unfold State.gather
      simp only [useSign, ht]
    · cases hne
    · cases hne
  · obtain ⟨hne, -⟩ | ⟨-, rfl, rfl, rfl⟩ | ⟨hne, -⟩ := hclaim
    · cases hne
    · refine congrArg _ (fileUse_runs hquiet hfree (fun t ht => ?_) hjudge hnote huq hue)
      unfold State.gather
      simp only [useDerive, ht]
    · cases hne
  · obtain ⟨hne, -⟩ | ⟨hne, -⟩ | ⟨-, rfl, rfl, rfl⟩ := hclaim
    · cases hne
    · cases hne
    · exact congrArg _ (fileUse_releases hquiet hfree hjudge hnote huq)

/-! ### EXTEND and QUOTE (R139 to R141, R147, R148) -/

theorem execExtend_of_request {s : State} {ch : Chan} {lane : Byte} {digest label : Bytes} (hdigest : digest.length = 32)
    (hlabel : label.length ≤ 16) (hlane : lane.toNat ≤ 7)
    (hreq : s.request ch 0x50#8 = some ([lane] ++ digest ++ [byte label.length] ++ label)) :
    exec (.extend ch) s = .next (s.extend ch { lane := lane.toNat, digest := digest, label := label }).settle := by
  refine (serveWork_of_request hreq _).trans ?_
  simp only [(layout_ends (parseExtend_layout lane digest label hlane hdigest hlabel) 0#8).1]

section Extend
variable {s : State} {ch : Chan} {a : ExtendArgs}

theorem extend_elsewhere (h : laneOf ch a.lane = false) : s.extend ch a = s.refuse ch .notPermitted := by
  unfold State.extend
  rw [h]
  rfl

theorem extend_refused {st : Status} (h : laneOf ch a.lane = true) (href : s.extendRefusal ch = some st) :
    s.extend ch a = s.refuse ch st := by
  unfold State.extend
  simp only [h, href, Bool.not_true, Bool.false_eq_true, if_false]

theorem extend_runs (hquiet : s.quiet = true) (hfree : s.engine.free = true) (h : laneOf ch a.lane = true)
    (href : s.extendRefusal ch = none) :
    (s.extend ch a).settle =
      { s.setWork ch .extend with
        engine := s.engine.runs (Chan.claimant ch) (.extend a.lane (s.meas.lane a.lane) a.digest a.label (Chan.source ch)) } := by
  have hchan : (Chan.claimant ch).chan = ch := by cases ch <;> rfl
  have href' : (s.setWork ch .extend).extendRefusal ch = none := by
    rw [← href]
    unfold State.extendRefusal
    rw [State.setWork_meas]
  unfold State.extend
  simp only [h, href, Bool.not_true, Bool.false_eq_true, if_false]
  refine (State.settle_claim _ _ _ (.extend a.lane (s.meas.lane a.lane) a.digest a.label (Chan.source ch)) (by simpa using hquiet)
    (by simpa using hfree) ?_).trans ?_
  · rw [hchan]
    unfold State.gather
    simp only [href', State.setWork_meas]
  · rw [State.setWork_engine]

end Extend

/-- The refusals of EXTEND at its grant (R139 to R141). -/
theorem extendRefusal_cases (s : State) :
    (s.meas.bootOpen = false → s.extendRefusal .S = some .wrongState) ∧
    (s.meas.bootOpen = true → 30 ≤ s.meas.log.length → s.extendRefusal .S = some .logFull) ∧
    (48 ≤ s.meas.log.length → s.extendRefusal .A = some .logFull) ∧
    (s.meas.bootOpen = true → s.meas.log.length < 30 → s.extendRefusal .S = none) ∧
    (s.meas.log.length < 48 → s.extendRefusal .A = none) := by
  unfold State.extendRefusal
  refine ⟨fun h => ?_, fun h hfull => ?_, fun hfull => if_pos hfull, fun h hroom => ?_, fun hroom => if_neg (by omega)⟩
  · simp [h]
  · simp [h, hfull]
  · simp [h, hroom]

theorem statement_eq {s : State} {nonce copy : Bytes} {mask : Byte} (hlife : s.ota.lifecycle = .sealed)
    (hid : s.ota.identity = some copy) :
    s.statement nonce mask =
      [1#8] ++ slice copy 10 16
        ++ [3#8, byte s.ota.epoch, byte s.ota.loader, byte s.ota.system, byte s.ota.radio, s.boot.mode.code,
            bankCode s.boot.booted, byte s.meas.log.length, mask]
        ++ (List.range 8).flatMap (fun k => if mask.getLsbD k then s.meas.lane k else [])
        ++ [byte nonce.length] ++ nonce ++ be 4 s.owner.uptime := by
  unfold State.statement
  rw [hlife, hid, ← selected_eq]
  simp only [Option.getD_some, Lifecycle.code, List.cons_append, List.nil_append, List.append_assoc]

theorem execQuote_of_request {s : State} {ch : Chan} {nonce : Bytes} {mask : Byte} (hlow : 8 ≤ nonce.length)
    (hhigh : nonce.length ≤ 32) (hreq : s.request ch 0x53#8 = some ([byte nonce.length] ++ nonce ++ [mask])) :
    exec (.quote ch) s =
      .next (if s.ota.lifecycle = .sealed then
          (s.setWork ch .quoteDigest).fileClaim (Chan.claimant ch) (.digestQuote nonce mask)
        else s.refuse ch .wrongState).settle := by
  refine (serveWork_of_request hreq _).trans ?_
  simp only [(layout_ends (parseQuote_layout nonce mask hlow hhigh) 0#8).1]

/-- Settles O39: the lane's channel, the refusals, the job; the lifecycle and the statement of a quote. -/
theorem extendAndQuoteAtTheirGrant : Obligations.ExtendAndQuoteAtTheirGrant := by
  intro ch s who hquiet hfree hwho
  replace hwho : who = Chan.claimant ch := hwho.trans (by cases ch <;> rfl)
  refine ⟨fun lane digest label hdigest hlabel hlane hreq => ?_, fun nonce mask hlow hhigh hreq => ⟨fun hlife => ?_, ?_⟩⟩
  · obtain ⟨hclosed, hfullS, hfullA, hroomS, hroomA⟩ := extendRefusal_cases s
    rw [execExtend_of_request hdigest hlabel hlane hreq]
    refine ⟨fun hother => ?_, fun hch hboot hopen => ?_, fun hfull => ?_, fun hroom => ?_⟩
    · have hlane' : laneOf ch lane.toNat = false := by
        obtain ⟨rfl, h⟩ | ⟨rfl, h⟩ := hother
        · exact decide_eq_false (by omega)
        · exact decide_eq_false (by omega)
      rw [extend_elsewhere hlane', settle_refuse hquiet]
    · subst hch
      rw [extend_refused (ch := .S) (a := { lane := lane.toNat, digest := digest, label := label }) (decide_eq_true hboot) (hclosed hopen), settle_refuse hquiet]
    · obtain ⟨rfl, hboot, hopen, hlen⟩ | ⟨rfl, happ, hlen⟩ := hfull
      · rw [extend_refused (ch := .S) (a := { lane := lane.toNat, digest := digest, label := label }) (decide_eq_true hboot) (hfullS hopen hlen), settle_refuse hquiet]
      · rw [extend_refused (ch := .A) (a := { lane := lane.toNat, digest := digest, label := label }) (decide_eq_true happ) (hfullA hlen), settle_refuse hquiet]
    · rw [hwho]
      obtain ⟨rfl, hboot, hopen, hlen⟩ | ⟨rfl, happ, hlen⟩ := hroom
      · exact congrArg _ (extend_runs hquiet hfree (decide_eq_true hboot) (hroomS hopen hlen))
      · exact congrArg _ (extend_runs hquiet hfree (decide_eq_true happ) (hroomA hlen))
  · rw [execQuote_of_request hlow hhigh hreq, if_neg hlife, settle_refuse hquiet]
  · rintro copy stmt hlife hid rfl
    have hstmt : (s.setWork ch .quoteDigest).statement nonce mask = s.statement nonce mask := by cases ch <;> rfl
    rw [execQuote_of_request hlow hhigh hreq, if_pos hlife, ← statement_eq hlife hid, hwho, ← hstmt]
    refine congrArg _ ((State.settle_claim _ _ _ _ (by simpa using hquiet) (by simpa using hfree) rfl).trans ?_)
    rw [State.setWork_engine]
    rfl

/-! ### The end of an EXTEND job (R136, R138, R141 to R143) -/

/-- An end of a job that is still wanted goes to `f`; a job whose requester is gone frees the engine alone (R34). -/
theorem jobEnd_eq (s : State) (r : Running) (f : State → State) :
    s.jobEnd r f = .next (if r.dropped then s.engineFreed.settle else (f s.engineFreed).settle) := rfl

/-- The boot lanes close when a release waits for the extension (R136). -/
def State.closesLanes (s : State) : State :=
  match s.boot.stage with
  | .releaseClosing _ _ => { s with meas := { s.meas with bootOpen := false } }
  | _ => s

theorem closesLanes_open {s : State} (h : ∀ m b, s.boot.stage ≠ .releaseClosing m b) : s.closesLanes = s := by
  unfold State.closesLanes
  split
  · exact absurd ‹_› (h _ _)
  · rfl

theorem closesLanes_waiting {s : State} {m : BootMode} {b : Option Bank} (h : s.boot.stage = .releaseClosing m b) :
    s.closesLanes = { s with meas := { s.meas with bootOpen := false } } := by
  unfold State.closesLanes
  rw [h]

@[simp] theorem closesLanes_log (s : State) : s.closesLanes.meas.log = s.meas.log := by
  unfold State.closesLanes
  split <;> rfl

@[simp] theorem closesLanes_boot (s : State) : s.closesLanes.boot = s.boot := by
  unfold State.closesLanes
  split <;> rfl

/-- The state in which an extension's maker goes on: completed, and the boot lanes closed where a release waits. -/
def State.extended (s : State) (lane : Nat) (value digest label : Bytes) (src : Source) : State :=
  (s.completeExtension lane (extendOf value digest) digest label src).closesLanes

section Extended
variable (s : State) (ch : Chan) (lane : Nat) (value digest label : Bytes)

theorem extendEnded_part :
    s.extendEnded ch lane value digest label .part = (s.extended lane value digest label .part).partExtended := rfl

theorem extendEnded_recovery :
    s.extendEnded ch lane value digest label .recovery =
      ((s.extended lane value digest label .recovery).setWork .S .recoveryRelease).mapBoot
        fun bt => { bt with stage := .releaseReady .recovery none } := rfl

theorem extendEnded_request {src : Source} (h : src = .supervisor ∨ src = .application) :
    s.extendEnded ch lane value digest label src =
      (s.extended lane value digest label src).reply ch .ok (byte s.meas.log.length :: extendOf value digest) := by
  have hcount : (s.extended lane value digest label src).meas.log.length - 1 = s.meas.log.length := by
    unfold State.extended
    rw [closesLanes_log]
    simp [State.completeExtension, State.invalidate]
  rw [← hcount]
  obtain rfl | rfl := h <;> rfl

end Extended

theorem execExtendJobEnd_of {s : State} {who : Claimant} {lane : Nat} {value digest label : Bytes} {src : Source} {gone : Bool}
    (hrun : s.engine.running = some { who := who, job := .extend lane value digest label src, dropped := gone }) :
    exec .extendJobEnd s =
      .next (if gone then s.engineFreed.settle
        else (s.engineFreed.extendEnded who.chan lane value digest label src).settle) := by
  show execExtendJobEnd s = _
  unfold execExtendJobEnd
  rw [hrun]
  rfl

/-- Settles O40: the extension and the close of the lanes, then its maker by the source. -/
theorem extensionIsCompletedAtOnce : Obligations.ExtensionIsCompletedAtOnce := by
  intro s u v who lane value digest label src gone hrun hu hopen hclosing
  have hv : s.engineFreed.extended lane value digest label src = v := by
    have hdone : s.engineFreed.completeExtension lane (extendOf value digest) digest label src = u := by rw [hu]; rfl
    have hstage : u.boot = s.boot := by rw [hu]; rfl
    unfold State.extended
    rw [hdone]
    by_cases h : ∃ m b, s.boot.stage = .releaseClosing m b
    · obtain ⟨m, b, h⟩ := h
      rw [hclosing m b h]
      exact closesLanes_waiting (by rw [hstage]; exact h)
    · have hnone : ∀ m b, s.boot.stage ≠ .releaseClosing m b := fun m b hb => h ⟨m, b, hb⟩
      rw [hopen hnone]
      exact closesLanes_open (by rw [hstage]; exact hnone)
  rw [execExtendJobEnd_of hrun]
  refine ⟨fun hgone => ?_, fun hgone => ⟨?_, ?_, ?_, ?_⟩⟩
  · rw [if_pos hgone]
  · rintro ⟨rfl, rfl⟩
    rw [if_neg (by simp [hgone]), extendEnded_request _ _ _ _ _ _ (.inl rfl), hv]
    rfl
  · rintro ⟨rfl, rfl⟩
    rw [if_neg (by simp [hgone]), extendEnded_request _ _ _ _ _ _ (.inr rfl), hv]
    rfl
  · rintro rfl
    rw [if_neg (by simp [hgone]), extendEnded_part, hv]
  · rintro rfl
    have hboot : v.boot = s.boot := by
      rw [← hv]
      exact closesLanes_boot _
    rw [if_neg (by simp [hgone]), extendEnded_recovery, hv, ← hboot]
    rfl

/-! ### The ends of SIGN, DERIVE and KEYGEN jobs (R27 to R29, R47, R85, R129, R149) -/

section KeyJobs
variable {s : State} {who : Claimant} {gone : Bool}

theorem execSignJobEnd_of {scalar digest : Bytes}
    (hrun : s.engine.running = some { who := who, job := .sign scalar digest, dropped := gone }) :
    exec .signJobEnd s =
      .next (if gone then s.engineFreed.settle else (s.engineFreed.signEnded who.chan (signatureOf scalar digest)).settle) := by
  show execSignJobEnd s = _
  unfold execSignJobEnd
  rw [hrun]
  rfl

theorem execDeriveJobEnd_of {key info : Bytes}
    (hrun : s.engine.running = some { who := who, job := .derive key info, dropped := gone }) :
    exec .deriveJobEnd s =
      .next (if gone then s.engineFreed.settle else (s.engineFreed.reply who.chan .ok (deriveOf key info)).settle) := by
  show execDeriveJobEnd s = _
  unfold execDeriveJobEnd
  rw [hrun]
  rfl

theorem execKeygenEnd_linkKey (healthy : Bool) (draws : List Bytes)
    (hrun : s.engine.running = some { who := who, job := .keygen .linkKey, dropped := false }) :
    exec (.keygenEnd healthy draws) s =
      .next (if healthy then s.engineFreed.keyGenerated who.chan (drawOf draws) none
        else s.engineFreed.reply who.chan .rngFault []).settle := by
  show execKeygenEnd healthy draws s = _
  unfold execKeygenEnd
  rw [hrun]
  cases healthy <;> rfl

theorem execKeygenEnd_signingKey {draws : List Bytes} {d : Bytes} (hdraw : scalarOf draws = some d)
    (hrun : s.engine.running = some { who := who, job := .keygen .signingKey, dropped := false }) :
    exec (.keygenEnd true draws) s =
      .next (s.engineFreed.keyGenerated who.chan (d ++ publicKey d) (some (publicKey d))).settle := by
  show execKeygenEnd true draws s = _
  unfold execKeygenEnd
  rw [hrun, hdraw]
  rfl

theorem execKeygenEnd_signingKey_fault (draws : List Bytes)
    (hrun : s.engine.running = some { who := who, job := .keygen .signingKey, dropped := false }) :
    exec (.keygenEnd false draws) s = .next (s.engineFreed.reply who.chan .rngFault []).settle := by
  show execKeygenEnd false draws s = _
  unfold execKeygenEnd
  rw [hrun]
  rfl

theorem execKeygenEnd_deviceSeed (healthy : Bool) (draws : List Bytes)
    (hrun : s.engine.running = some { who := who, job := .keygen .deviceSeed, dropped := false }) :
    exec (.keygenEnd healthy draws) s =
      .next (if healthy then s.engineFreed.seedGenerated (drawOf draws) else s.engineFreed.reply .S .rngFault []).settle := by
  show execKeygenEnd healthy draws s = _
  unfold execKeygenEnd
  rw [hrun]
  cases healthy <;> rfl

theorem execKeygenEnd_attestation {seed : Bytes} (healthy : Bool) (draws : List Bytes)
    (hrun : s.engine.running = some { who := who, job := .keygen (.attestation seed), dropped := false }) :
    exec (.keygenEnd healthy draws) s = .next (s.engineFreed.attestGenerated seed).settle := by
  show execKeygenEnd healthy draws s = _
  unfold execKeygenEnd
  rw [hrun]
  rfl

end KeyJobs

theorem signEnded_of {s : State} {ch : Chan} (sig : Bytes) :
    (s.work ch = .use → s.signEnded ch sig = s.reply ch .ok sig) ∧
    (∀ stmt, s.work ch = .quoteSign stmt → s.signEnded ch sig = s.reply ch .ok (stmt ++ sig)) := by
  unfold State.signEnded
  exact ⟨fun h => by simp only [h], fun stmt h => by simp only [h]⟩

theorem keyGenerated_of {s : State} {ch : Chan} {slot : Nat} {r : Rec} {g : Option Word} (payload : Bytes) (pub : Option Bytes)
    (h : s.work ch = .generateKeygen slot r g) :
    s.keyGenerated ch payload pub =
      (s.setWork ch (.generateStore pub)).fileJob
        { slot := slot, record := { r with payload := payload }, expected := g, writer := .channelRequest, chan := some ch,
          filer := .generateKey, orphan := false } := by
  unfold State.keyGenerated
  simp only [h]

theorem attestGenerated_of {s : State} (seed : Bytes) :
    (s.work .S = .keysAttest .ok →
      s.attestGenerated seed =
        ({ s with engine := { s.engine with attest := some (attestKeyOf seed) } } : State).reply .S .ok
          ((attestKeyOf seed).pub ++ [s.lifeByte])) ∧
    (s.work .S = .keysAttest .otpFault →
      s.attestGenerated seed =
        ({ s with engine := { s.engine with attest := some (attestKeyOf seed) } } : State).reply .S .otpFault
          (2#8 :: optBytes (some (attestKeyOf seed).pub) ++ [s.lifeByte])) := by
  have hwork : (s.mapEngine fun e => { e with attest := some (attestKeyOf seed) }).work .S = s.work .S := rfl
  unfold State.attestGenerated
  refine ⟨fun h => ?_, fun h => ?_⟩
  · simp only [hwork, h]
    rfl
  · simp only [hwork, h]
    rfl

theorem drawOf_cons {draw : Bytes} (draws : List Bytes) (h : draw.length = 32) : drawOf (draw :: draws) = draw := by
  show fit 32 0#8 draw = draw
  rw [fit_take 32 32 _ _ (by omega), List.take_of_length_le (by omega)]

theorem scalarOf_cons {draw : Bytes} (draws : List Bytes) (h : draw.length = 32) (hlow : 1 ≤ beNat draw)
    (hhigh : beNat draw < order256) : scalarOf (draw :: draws) = some draw := by
  have hfit : fit 32 0#8 draw = draw := drawOf_cons draws h
  unfold scalarOf
  rw [List.map_cons, hfit, List.find?_cons_of_pos]
  simp [hlow, hhigh]

/-- The signature is r and s, each of 32 bytes and in 1..n-1 (R26). -/
theorem signatureOf_good (scalar digest : Bytes) (hlow : 1 ≤ beNat scalar) (hhigh : beNat scalar < order256) :
    (signatureOf scalar digest).length = 64 ∧
    1 ≤ beNat ((signatureOf scalar digest).take 32) ∧ beNat ((signatureOf scalar digest).take 32) < order256 ∧
    1 ≤ beNat ((signatureOf scalar digest).drop 32) ∧ beNat ((signatureOf scalar digest).drop 32) < order256 := by
  obtain ⟨hr, hs⟩ := signPair_ne_zero scalar digest hlow hhigh
  obtain ⟨hr', hs'⟩ : (signPair scalar digest).1 < order256 ∧ (signPair scalar digest).2 < order256 := signAttempt_lt _ _ _
  have hfits : order256 < 256 ^ 32 := by decide
  have htake : (signatureOf scalar digest).take 32 = be 32 (signPair scalar digest).1 :=
    List.take_left' (be_length 32 _)
  have hdrop : (signatureOf scalar digest).drop 32 = be 32 (signPair scalar digest).2 :=
    List.drop_left' (be_length 32 _)
  refine ⟨?_, ?_⟩
  · show (be 32 (signPair scalar digest).1 ++ be 32 (signPair scalar digest).2).length = 64
    rw [List.length_append, be_length, be_length]
  · rw [htake, hdrop, beNat_be (Nat.lt_trans hr' hfits), beNat_be (Nat.lt_trans hs' hfits)]
    exact ⟨Nat.pos_of_ne_zero hr, hr', Nat.pos_of_ne_zero hs, hs'⟩

/-- Settles O41: each job's end by the work that waits for it; and what a signature is. -/
theorem keyJobsHandBackTheirResults : Obligations.KeyJobsHandBackTheirResults := by
  refine ⟨fun s ch who gone hwho => ?_, signatureOf_good⟩
  have hchan : who.chan = ch := by
    rw [hwho]
    cases ch <;> rfl
  have hwork : s.engineFreed.work ch = (s.chan ch).work := by cases ch <;> rfl
  refine ⟨fun scalar digest hrun => ⟨fun hgone => ?_, fun hgone => ⟨fun h => ?_, fun stmt h => ?_⟩⟩,
    fun key info hrun => ⟨fun hgone => ?_, fun hgone => ?_⟩,
    fun slot r g draw draws h hgone hlen => ⟨fun hrun => ?_, fun hrun hscalar => ?_, fun hrun => ?_⟩,
    fun seed draws hlen hrun => ⟨?_, ?_⟩, fun seed draws healthy hrun h => ?_, fun seed draws healthy hrun h => ?_⟩
  · rw [execSignJobEnd_of hrun, if_pos hgone]
  · rw [execSignJobEnd_of hrun, if_neg (by simp [hgone]), hchan, (signEnded_of _).1 (hwork.trans h)]
  · rw [execSignJobEnd_of hrun, if_neg (by simp [hgone]), hchan, (signEnded_of _).2 stmt (hwork.trans h)]
  · rw [execDeriveJobEnd_of hrun, if_pos hgone]
  · rw [execDeriveJobEnd_of hrun, if_neg (by simp [hgone]), hchan]
    simp [deriveOf, byte]
  · subst hgone
    rw [execKeygenEnd_linkKey true _ hrun, hchan, drawOf_cons draws hlen, if_pos rfl, keyGenerated_of _ _ (hwork.trans h)]
  · subst hgone
    rw [execKeygenEnd_signingKey (scalarOf_cons draws hlen hscalar.1 hscalar.2) hrun, hchan, keyGenerated_of _ _ (hwork.trans h)]
  · subst hgone
    obtain hrun | hrun := hrun
    · rw [execKeygenEnd_linkKey false _ hrun, hchan]
      rfl
    · rw [execKeygenEnd_signingKey_fault _ hrun, hchan]
  · rw [execKeygenEnd_deviceSeed true _ hrun, drawOf_cons draws hlen]
    rfl
  · rw [execKeygenEnd_deviceSeed false _ hrun]
    rfl
  · rw [execKeygenEnd_attestation healthy draws hrun, (attestGenerated_of (s := s.engineFreed) seed).1 h]
    rfl
  · rw [execKeygenEnd_attestation healthy draws hrun, (attestGenerated_of (s := s.engineFreed) seed).2 h]
    rfl

end Sys2Proof.Machine

/-! The ends of the jobs of a bank check (O42). -/
namespace Sys2Proof.Machine

section JobEnds
variable {s : State} {who : Claimant} {gone : Bool}

theorem execFinishDigestEnd_of {p : DigestFor} {st : DigestState} {final : Bytes}
    (hrun : s.engine.running = some { who := who, job := .finishDigest p st final, dropped := gone }) :
    exec .finishDigestEnd s =
      .next (if gone then s.engineFreed.settle else (s.engineFreed.digestEnded who p (st.feed final).finish).settle) := by
  show execFinishDigestEnd s = _
  unfold execFinishDigestEnd
  rw [hrun]
  rfl

theorem execVerifySignatureEnd_of {key d sig : Bytes}
    (hrun : s.engine.running = some { who := who, job := .verifySig key d sig, dropped := gone }) :
    exec .verifySignatureEnd s =
      .next (if gone then s.engineFreed.settle else (s.engineFreed.signatureChecked (verifySignature key d sig)).settle) := by
  show execVerifySignatureEnd s = _
  unfold execVerifySignatureEnd
  rw [hrun]
  rfl

theorem execHashChunkEnd_of {st : DigestState} {bytes : Bytes}
    (hrun : s.engine.running = some { who := who, job := .hashChunk st bytes, dropped := gone }) :
    exec .hashChunkEnd s =
      .next (if gone then s.engineFreed.settle else (s.engineFreed.chunkHashed (st.feed bytes) bytes.length).settle) := by
  show execHashChunkEnd s = _
  unfold execHashChunkEnd
  rw [hrun]
  rfl

end JobEnds

/-! ### Signer, anchor and signature (R92, R164) -/

section Signer
variable {s : State} {d : Bytes}

theorem manifestDigested_anchor {r : Rec} (hkept : s.store.keptRec (manifestSigner s.checker.manifest) = some r)
    (h : anchorRecord r = true) :
    s.manifestDigested d =
      ({ s with checker := { s.checker with manDigest := some d, anchor := some r.payload } } : State).fileClaim .F .digestAnchor := by
  have hkept' : (s.mapChecker fun c => { c with manDigest := some d }).store.keptRec
      (manifestSigner (s.mapChecker fun c => { c with manDigest := some d }).checker.manifest) = some r := hkept
  unfold State.manifestDigested
  simp only [hkept', h, if_true]
  rfl

theorem manifestDigested_signer
    (h : s.store.keptRec (manifestSigner s.checker.manifest) = none ∨
      ∃ r, s.store.keptRec (manifestSigner s.checker.manifest) = some r ∧ anchorRecord r = false) :
    s.manifestDigested d = ({ s with checker := { s.checker with manDigest := some d } } : State).checkFailed .signer := by
  have hsame : (s.mapChecker fun c => { c with manDigest := some d }).store.keptRec
      (manifestSigner (s.mapChecker fun c => { c with manDigest := some d }).checker.manifest) =
        s.store.keptRec (manifestSigner s.checker.manifest) := rfl
  unfold State.manifestDigested
  obtain h | ⟨r, h, hbad⟩ := h
  · simp only [hsame, h]
    rfl
  · simp only [hsame, h, hbad, Bool.false_eq_true, if_false]
    rfl

theorem anchorRecord_iff (r : Rec) :
    anchorRecord r = true ↔ r.kind = .trustAnchor ∧ r.domain = some .update ∧ r.payload.length = 64 ∧ r.flags.getLsbD 3 = true := by
  unfold anchorRecord useAnchor
  simp [and_assoc]

theorem vouches_iff (o : Ota) (d : Bytes) : o.vouches d = true ↔ ∃ r, r ∈ o.roots ∧ r.present = true ∧ r.digest = d := by
  simp [Ota.vouches]

theorem vouches_false {o : Ota} (h : ∀ r, r ∈ o.roots → r.present = true → r.digest ≠ d) : o.vouches d = false := by
  refine Bool.eq_false_iff.2 fun hvouched => ?_
  obtain ⟨r, hr, hpresent, hdigest⟩ := (vouches_iff o d).1 hvouched
  exact h r hr hpresent hdigest

/-- A good signature over epochs that are not below their floors: the first segment is hashed. -/
theorem signatureChecked_good {g : Segment} (hfloor : s.ota.belowFloor (manifestEpochs s.checker.manifest) = false)
    (hg : g = manifestSegment s.checker.manifest 0) :
    s.signatureChecked true =
      { s with checker := { s.checker with
          state := .hashing, adm := if s.checker.work = .admission then .hashing else s.checker.adm, segIndex := 0,
          descAddr := s.boot.phaseCopy.base s.checker.bank + g.offset, descRem := g.length, digest := some DigestState.fresh,
          flash := some { read := .chunk (min 4096 g.length), dropped := false } } } := by
  subst hg
  unfold State.signatureChecked
  rw [if_pos rfl, if_neg (by simp [hfloor])]
  cases hwork : s.checker.work <;> simp [State.startSegment, State.readChunk, State.startRead, State.mapChecker, Checker.setStep, hwork]

theorem signatureChecked_rollback (hfloor : s.ota.belowFloor (manifestEpochs s.checker.manifest) = true) :
    s.signatureChecked true = s.checkFailed .rollback :=
  (if_pos rfl).trans (if_pos hfloor)

theorem signatureChecked_bad : s.signatureChecked false = s.checkFailed .signature := rfl

end Signer

/-! ### Chunks and segments (R165) -/

section Segments
variable {s : State}

theorem chunkHashed_last {st : DigestState} {n : Nat} (h : s.checker.descRem ≤ n) :
    s.chunkHashed st n =
      ({ s with checker := { s.checker with digest := some st, descRem := 0, descAddr := s.checker.descAddr + n } } : State).fileClaim
        .F .digestSegment := by
  have hrem : s.checker.descRem - n = 0 := by omega
  unfold State.chunkHashed
  simp only [State.mapChecker, hrem, if_true]

theorem chunkHashed_more {st : DigestState} {n rem : Nat} (h : n < s.checker.descRem) (hrem : rem = s.checker.descRem - n) :
    s.chunkHashed st n =
      { s with checker := { s.checker with
          digest := some st, descRem := rem, descAddr := s.checker.descAddr + n,
          flash := some { read := .chunk (min 4096 rem), dropped := false } } } := by
  subst hrem
  unfold State.chunkHashed
  exact if_neg (show ¬ s.checker.descRem - n = 0 by omega)

theorem segmentDigested_bad {d : Bytes} (h : d ≠ (manifestSegment s.checker.manifest s.checker.segIndex).digest) :
    s.segmentDigested d = s.checkFailed .digest := if_neg h

variable {d : Bytes} (h : d = (manifestSegment s.checker.manifest s.checker.segIndex).digest)
include h

/-- The segment after a confirmed one is hashed. -/
theorem segmentDigested_next {i : Nat} {g : Segment} (hi : i = s.checker.segIndex + 1)
    (hmore : i < manifestCount s.checker.manifest) (hg : g = manifestSegment s.checker.manifest i) :
    s.segmentDigested d =
      { s with checker := { s.checker with
          segIndex := i, descAddr := s.boot.phaseCopy.base s.checker.bank + g.offset, descRem := g.length,
          digest := some DigestState.fresh, flash := some { read := .chunk (min 4096 g.length), dropped := false } } } := by
  subst hi hg
  exact (if_pos h).trans (if_pos hmore)

theorem segmentDigested_last (hlast : manifestCount s.checker.manifest ≤ s.checker.segIndex + 1) :
    s.segmentDigested d = s.allHashed := (if_pos h).trans (if_neg (by omega))

end Segments

theorem allHashed_boot {s : State} {d : Bytes} (hwork : s.checker.work = .boot) (hnone : s.checker.extended = 0)
    (hd : s.checker.manDigest = some d) :
    s.allHashed =
      ({ s with checker := { s.checker with state := .recording } } : State).fileClaim .F (.extendPart 0 d (ascii "MANIFEST")) := by
  unfold State.allHashed
  rw [hwork]
  unfold State.extendNext
  refine (if_pos hnone).trans ?_
  show State.fileClaim _ .F (.extendPart 0 (s.checker.manDigest.getD zeros32) (ascii "MANIFEST")) = _
  rw [hd]
  rfl

theorem allHashed_admission {s : State} {d : Bytes} (hwork : s.checker.work = .admission) (hd : s.checker.manDigest = some d) :
    s.allHashed =
      ({ s with checker := { s.checker with adm := .committing } } : State).ask
        (.commitAdm s.checker.bank (manifestEpochs s.checker.manifest) d) := by
  have hdigest : s.checker.manDigest.getD zeros32 = d := by rw [hd]; rfl
  unfold State.allHashed
  rw [hwork]
  dsimp only
  rw [hdigest]
  rfl

/-! ### The pass of a bank (R142, R160, R166) -/

section Pass
variable {s : State}

theorem partExtended_next {g : Segment} (hmore : s.checker.extended < manifestCount s.checker.manifest)
    (hg : g = manifestSegment s.checker.manifest s.checker.extended) :
    s.partExtended =
      ({ s with checker := { s.checker with extended := s.checker.extended + 1 } } : State).fileClaim .F
        (.extendPart g.lane g.digest (g.kind.elim [] SegKind.name)) := by
  subst hg
  exact if_pos (show s.checker.extended + 1 ≤ manifestCount s.checker.manifest from hmore)

theorem partExtended_last {d : Bytes} (hlast : manifestCount s.checker.manifest ≤ s.checker.extended)
    (hd : s.checker.manDigest = some d) :
    s.partExtended =
      ({ s with checker := { s.checker with extended := s.checker.extended + 1 } } : State).bootPassed s.checker.bank
        (manifestEpochs s.checker.manifest) d := by
  refine (if_neg (show ¬ s.checker.extended + 1 ≤ manifestCount s.checker.manifest by omega)).trans ?_
  show State.bootPassed _ s.checker.bank (manifestEpochs s.checker.manifest) (s.checker.manDigest.getD zeros32) = _
  rw [hd]
  rfl

theorem bootPassed_eq {u : State} {b : Bank} {factory : Bool} {e : Epochs} {d : Bytes}
    (hfactory : factory = (s.boot.stage == .checking b true))
    (hu : u = { s with checker := s.checker.discard, boot := { s.boot with bootedPass := some { epochs := e, digest := d } } }) :
    s.bootPassed b e d =
      if s.boot.record.apply (.passed b factory e d) = s.boot.record then u.afterRecord b factory
      else { u with boot := { u.boot with
          stage := .passWait b factory, changes := s.boot.changes ++ [{ change := .passed b factory e d, live := true }] } } := by
  subst hfactory hu
  rfl

theorem afterRecord_factory {b : Bank} {p : PassInfo} (h : s.boot.bootedPass = some p) :
    s.afterRecord b true =
      ({ s with boot := { s.boot with stage := .floors b } } : State).fileOta (.advance .loader p.epochs.loader .factory) := by
  unfold State.afterRecord
  rw [if_pos rfl, h]
  rfl

/-- A floor advance of a factory pass: the next of the three, or the release. -/
theorem factoryAdvanced_eq {u : State} {b : Bank} {p : PassInfo} {out : AdvOut} (hstage : s.boot.stage = .floors b)
    (hpass : s.boot.bootedPass = some p) (hu : u = { s with boot := { s.boot with factory := s.boot.factory ++ [out] } }) :
    (s.boot.factory.length = 0 → s.factoryAdvanced out = u.fileOta (.advance .system p.epochs.system .factory)) ∧
    (s.boot.factory.length = 1 → s.factoryAdvanced out = u.fileOta (.advance .radio p.epochs.radio .factory)) ∧
    (s.boot.factory.length = 2 →
      s.factoryAdvanced out = { u with boot := { u.boot with stage := .releaseReady .normal (some b) } }) := by
  have hlen : u.boot.factory.length = s.boot.factory.length + 1 := by rw [hu]; exact List.length_append
  have hstage' : u.boot.stage = .floors b := by rw [hu]; exact hstage
  have hpass' : u.boot.bootedPass = some p := by rw [hu]; exact hpass
  have hmap : (s.mapBoot fun bt => { bt with factory := bt.factory ++ [out] }) = u := by rw [hu]; rfl
  unfold State.factoryAdvanced
  rw [hmap]
  dsimp only
  refine ⟨fun h => ?_, fun h => ?_, fun h => ?_⟩
  all_goals
    conv => lhs; rw [hstage', hpass', hlen, h]
    rfl

end Pass

/-! ### A job whose claimant is gone (R34) -/

/-- The events that end a job, for the jobs of the image checker, the owner unit and the key generator. -/
theorem jobEnd_dropped {s : State} {r : Running} {c : Instr} (hrun : s.engine.running = some r) (hgone : r.dropped = true)
    (hcase : (∃ st bytes, r.job = .hashChunk st bytes ∧ c = .hashChunkEnd) ∨
      (∃ p st final, r.job = .finishDigest p st final ∧ c = .finishDigestEnd) ∨
      (∃ key d sig, r.job = .verifySig key d sig ∧ c = .verifySignatureEnd) ∨
      (∃ salt cand, r.job = .stretch salt cand ∧ c = .stretchEnd) ∨
      (∃ n ok drawn, r.job = .random n ∧ c = .randomEnd ok drawn) ∨
      (∃ k ok draws, r.job = .keygen k ∧ c = .keygenEnd ok draws ∧
        (k ≠ .signingKey ∨ ok = false ∨
          ∃ d rest, draws = d :: rest ∧ d.length = 32 ∧ 1 ≤ beNat d ∧ beNat d < order256))) :
    exec c s = .next s.engineFreed.settle := by
  obtain ⟨who, job, dropped⟩ := r
  have hdropped : dropped = true := hgone
  subst hdropped
  obtain ⟨st, bytes, rfl, rfl⟩ | ⟨p, st, final, rfl, rfl⟩ | ⟨key, d, sig, rfl, rfl⟩ | ⟨salt, cand, rfl, rfl⟩ |
    ⟨n, ok, drawn, rfl, rfl⟩ | ⟨k, ok, draws, rfl, rfl, hends⟩ := hcase
  · exact execHashChunkEnd_of hrun
  · exact execFinishDigestEnd_of hrun
  · exact execVerifySignatureEnd_of hrun
  · show execStretchEnd s = _
    unfold execStretchEnd
    rw [hrun]
    rfl
  · show execRandomEnd ok drawn s = _
    unfold execRandomEnd
    rw [hrun]
    rfl
  · show execKeygenEnd ok draws s = _
    unfold execKeygenEnd
    rw [hrun]
    cases k with
    | linkKey => rfl
    | deviceSeed => rfl
    | attestation seed => rfl
    | signingKey =>
      obtain hk | rfl | ⟨d, rest, rfl, hlen, hlow, hhigh⟩ := hends
      · exact absurd rfl hk
      · rfl
      · cases ok with
        | false => rfl
        | true =>
          rw [scalarOf_cons rest hlen hlow hhigh]
          rfl

/-- Settles O42: the ends of a check's jobs, the pass and what follows it, and the jobs whose claimant is gone. -/
theorem checkerJobsAdvanceTheCheck : Obligations.CheckerJobsAdvanceTheCheck := by
  refine ⟨fun s u hu => ⟨fun st final d hrun hd => ⟨fun r hkept => ⟨fun hgood => ?_, fun hbad => ?_⟩, fun hnone => ?_⟩,
      fun st final d hrun hd => ⟨fun hvouched => ?_, fun hnone => ?_⟩,
      fun key d sig hrun => ⟨fun hbad => ?_, fun hgood hbelow => ?_, fun hgood hfloor g hg => ?_⟩,
      fun st bytes hrun => ⟨fun hlast => ?_, fun rem hmore hrem => ?_⟩, fun st final hrun hbad => ?_⟩,
    fun s u st final m hu hm hrun hsame => ⟨fun i g hi hmore hg => ?_, fun d hlast hd => ⟨fun hwork hnone => ?_, fun hwork => ?_⟩⟩,
    fun s u m hm hu => ⟨fun g hmore hg => ?_, fun d hlast hd => ?_⟩,
    fun s u b factory e d hfactory hu => ⟨fun hsame => ?_, fun hother => ?_⟩,
    fun s b factory live e d st => rfl, fun s b p hpass => ⟨rfl, afterRecord_factory hpass⟩,
    fun s u b p k st hstage hpass hu => factoryAdvanced_eq hstage hpass hu,
    fun s r c hrun hgone hcase => jobEnd_dropped hrun hgone hcase⟩
  · subst hu hd
    rw [execFinishDigestEnd_of hrun]
    exact congrArg (fun x => Host.Outcome.next (State.settle x)) (manifestDigested_anchor hkept ((anchorRecord_iff r).2 hgood))
  · subst hu hd
    have hanchor : anchorRecord r = false := by
      refine Bool.eq_false_iff.2 fun h => ?_
      obtain ⟨hkind, hdomain, -, hflag⟩ := (anchorRecord_iff r).1 h
      obtain h | h | h := hbad
      · exact h hkind
      · exact h hdomain
      · rw [hflag] at h
        cases h
    rw [execFinishDigestEnd_of hrun]
    exact congrArg (fun x => Host.Outcome.next (State.settle x)) (manifestDigested_signer (.inr ⟨r, hkept, hanchor⟩))
  · subst hu hd
    rw [execFinishDigestEnd_of hrun]
    exact congrArg (fun x => Host.Outcome.next (State.settle x)) (manifestDigested_signer (.inl hnone))
  · subst hu hd
    rw [execFinishDigestEnd_of hrun]
    exact congrArg (fun x => Host.Outcome.next (State.settle x)) (if_pos ((vouches_iff _ _).2 hvouched))
  · subst hu hd
    rw [execFinishDigestEnd_of hrun]
    refine congrArg (fun x => Host.Outcome.next (State.settle x)) (if_neg ?_)
    exact Bool.eq_false_iff.1 (vouches_false hnone)
  · rw [execVerifySignatureEnd_of hrun, hbad, ← hu]
    rfl
  · rw [execVerifySignatureEnd_of hrun, hgood, ← hu]
    exact congrArg (fun x => Host.Outcome.next (State.settle x)) (signatureChecked_rollback (by rw [hu]; exact hbelow))
  · subst hu
    rw [execVerifySignatureEnd_of hrun, hgood]
    exact congrArg (fun x => Host.Outcome.next (State.settle x)) (signatureChecked_good (s := s.engineFreed) hfloor hg)
  · subst hu
    rw [execHashChunkEnd_of hrun]
    exact congrArg (fun x => Host.Outcome.next (State.settle x)) (chunkHashed_last (s := s.engineFreed) hlast)
  · subst hu
    rw [execHashChunkEnd_of hrun]
    exact congrArg (fun x => Host.Outcome.next (State.settle x)) (chunkHashed_more (s := s.engineFreed) hmore hrem)
  · subst hu
    rw [execFinishDigestEnd_of hrun]
    exact congrArg (fun x => Host.Outcome.next (State.settle x)) (segmentDigested_bad (s := s.engineFreed) hbad)
  · subst hu hm
    rw [execFinishDigestEnd_of hrun]
    exact congrArg (fun x => Host.Outcome.next (State.settle x)) (segmentDigested_next (s := s.engineFreed) hsame hi hmore hg)
  · subst hu hm
    rw [execFinishDigestEnd_of hrun]
    exact congrArg (fun x => Host.Outcome.next (State.settle x))
      ((segmentDigested_last (s := s.engineFreed) hsame hlast).trans (allHashed_boot hwork hnone hd))
  · subst hu hm
    rw [execFinishDigestEnd_of hrun]
    exact congrArg (fun x => Host.Outcome.next (State.settle x))
      ((segmentDigested_last (s := s.engineFreed) hsame hlast).trans (allHashed_admission hwork hd))
  · subst hm hu
    rw [partExtended_next hmore hg]
    cases g.kind <;> rfl
  · subst hm hu
    exact partExtended_last hlast hd
  · rw [bootPassed_eq hfactory hu, if_pos hsame]
  · rw [bootPassed_eq hfactory hu, if_neg hother]

end Sys2Proof.Machine

/-! The ends of a request's digest, and of the flash reads of a check (O43, O44). -/
namespace Sys2Proof.Machine

/-! ### The digest of INSTALL ROOT's key (R48) -/

/-- The digest's bits fit a byte when they clear none that is programmed. -/
theorem or_eq_left_iff (a b : Byte) : a ||| b = a ↔ ∀ i, i < 8 → a.getLsbD i = false → b.getLsbD i = false := by
  constructor
  · intro h i _ ha
    have hbit := congrArg (fun v => v.getLsbD i) h
    simpa [ha] using hbit
  · intro h
    refine BitVec.eq_of_getLsbD_eq fun i hi => ?_
    cases ha : a.getLsbD i with
    | true => simp [ha]
    | false => simp [ha, h i hi ha]

theorem orBytes_eq_left_iff {old d : Bytes} (hold : old.length = 32) (hd : d.length = 32) :
    List.zipWith (· ||| ·) old d = old ↔
      ∀ k i, k < 32 → i < 8 → (byteAt old k).getLsbD i = false → (byteAt d k).getLsbD i = false := by
  have hbyte {l : Bytes} {k : Nat} (hk : k < l.length) : byteAt l k = l[k] := by simp [byteAt, hk]
  have hall : List.zipWith (· ||| ·) old d = old ↔ ∀ k, k < 32 → byteAt old k ||| byteAt d k = byteAt old k := by
    rw [List.ext_getElem_iff]
    constructor
    · rintro ⟨-, h⟩ k hk
      have := h k (by simp; omega) (by omega)
      rwa [List.getElem_zipWith, ← hbyte, ← hbyte] at this
    · intro h
      refine ⟨by simp; omega, fun k h1 h2 => ?_⟩
      rw [List.getElem_zipWith, ← hbyte, ← hbyte]
      exact h k (by omega)
  rw [hall]
  exact ⟨fun h k i hk hi => (or_eq_left_iff _ _).1 (h k hk) i hi, fun h k hk => (or_eq_left_iff _ _).2 fun i hi => h k i hk hi⟩

section Root
variable {s : State} {d : Bytes}

theorem rootDigested_known (h : s.ota.vouches d = true) : s.rootDigested d = s.reply .S .badArgument [] := if_pos h

variable {can : Nat → Prop}
  (hcan : ∀ i, can i ↔ i < 4 ∧ ∃ r, s.ota.roots[i]? = some r ∧ r.present = false ∧ List.zipWith (· ||| ·) r.digest d = r.digest)
include hcan

/-- The entries that can take the digest, as the search looks for them. -/
theorem can_iff (i : Nat) :
    can i ↔ i < 4 ∧ ((s.ota.roots[i]?).any fun r => !r.present && orBytes r.digest d == r.digest) = true := by
  rw [hcan]
  refine and_congr_right fun _ => ?_
  cases s.ota.roots[i]? with
  | none => simp
  | some r => simp [orBytes]

variable (hnew : s.ota.vouches d = false)
include hnew

theorem rootDigested_full (h : ∀ i, ¬ can i) : s.rootDigested d = s.reply .S .noRoom [] := by
  have hfind : ((List.range 4).find? fun i => (s.ota.roots[i]?).any fun r => !r.present && orBytes r.digest d == r.digest) = none := by
    rw [List.find?_eq_none]
    exact fun i hi hi' => h i ((can_iff hcan i).2 ⟨List.mem_range.1 hi, hi'⟩)
  unfold State.rootDigested
  rw [if_neg (by simp [hnew]), hfind]
  rfl

theorem rootDigested_entry {e : Nat} (he : can e) (hfirst : ∀ i, i < e → ¬ can i) :
    s.rootDigested d = (s.setWork .S (.rootProgram e d)).fileOta (.root e d) := by
  obtain ⟨hlt, htakes⟩ := (can_iff hcan e).1 he
  have hfind : ((List.range 4).find? fun i => (s.ota.roots[i]?).any fun r => !r.present && orBytes r.digest d == r.digest) = some e := by
    rw [List.find?_range_eq_some]
    refine ⟨htakes, List.mem_range.2 hlt, fun i hi => ?_⟩
    have hnot := hfirst i hi
    rw [can_iff hcan] at hnot
    simp only [Bool.not_eq_true', Bool.eq_false_iff]
    exact fun h => hnot ⟨by omega, h⟩
  unfold State.rootDigested
  rw [if_neg (by simp [hnew]), hfind]

end Root

/-! ### The composite of OPEN KEY (R122) -/

section Composite
variable {s : State} {ch : Chan} {slot : Nat} {gen : Word} {r : Rec} {cleared : Bool} {d : Bytes}

theorem compositeDigested_differs (h : d ≠ r.composite) : s.compositeDigested ch slot gen r cleared d = s.refuse ch .policy :=
  if_pos h

variable (hsame : d = r.composite)
include hsame

theorem compositeDigested_written (h : s.store.gen slot ≠ gen) :
    s.compositeDigested ch slot gen r cleared d = s.reply ch .generationMismatch (be 4 (s.store.gen slot).toNat) :=
  (if_neg (not_not_intro hsame)).trans (if_pos h)

variable (hgen : s.store.gen slot = gen)
include hgen

theorem compositeDigested_denied (h : s.granted ch r.domain = false ∨ r.needsOwner = true ∧ s.owner.grant = none) :
    s.compositeDigested ch slot gen r cleared d = s.refuse ch .notPermitted := by
  refine (if_neg (not_not_intro hsame)).trans ((if_neg (not_not_intro hgen)).trans ?_)
  cases hgranted : s.granted ch r.domain with
  | false => rfl
  | true =>
    obtain ⟨hneeds, hnone⟩ := h.resolve_left (by simp [hgranted])
    simp [hneeds, hnone]

theorem compositeDigested_passes (hgranted : s.granted ch r.domain = true)
    (hgrant : r.needsOwner = true → s.owner.grant.isSome = true) :
    s.compositeDigested ch slot gen r cleared d =
      if cleared then (s.afterUse r.needsOwner).refuse ch .policy else (s.afterUse r.needsOwner).loadContext ch slot gen r := by
  refine (if_neg (not_not_intro hsame)).trans ((if_neg (not_not_intro hgen)).trans ?_)
  have hactive : (r.needsOwner && s.owner.grant.isNone) = false := by
    cases hneeds : r.needsOwner with
    | false => rfl
    | true => simpa using hgrant hneeds
  refine (if_neg (by simp [hgranted])).trans ((if_neg (by simp [hactive])).trans ?_)
  rfl

end Composite

theorem gather_signQuote {s : State} {ch : Chan} {d : Bytes} {k : AttestKey} (h : s.engine.attest = some k) :
    s.gather ch (.signQuote d) = (some (.sign k.scalar d), s) := by
  unfold State.gather
  simp only [h, Option.elim_some]

/-- Settles O43: the digests of INSTALL ROOT, OPEN KEY and QUOTE, and one whose requester is gone. -/
theorem digestsAnswerTheirRequests : Obligations.DigestsAnswerTheirRequests := by
  intro s u st final d hu hd
  have hexec {who : Claimant} {p : DigestFor}
      (hrun : s.engine.running = some { who := who, job := .finishDigest p st final, dropped := false }) :
      exec .finishDigestEnd s = .next (u.digestEnded who p d).settle := by
    rw [execFinishDigestEnd_of hrun, hu, hd]
    rfl
  have hota : u.ota = s.ota := by rw [hu]; rfl
  refine ⟨fun who hrun => ⟨fun hknown => ?_, fun can hnew hcan => ⟨fun hnone => ?_, fun e he hfirst => ?_⟩,
      fun old hold hlen => orBytes_eq_left_iff hold hlen⟩,
    fun ch who slot gen r cleared hwho hrun => ?composite, fun ch who stmt hwho hrun => ?quote,
    fun v ch k h => gather_signQuote h, fun who p hrun => ?_⟩
  · rw [hexec hrun]
    exact congrArg (fun x => Host.Outcome.next (State.settle x)) (rootDigested_known ((vouches_iff _ _).2 (by rwa [hota])))
  · rw [← hota] at hnew hcan
    rw [hexec hrun]
    exact congrArg (fun x => Host.Outcome.next (State.settle x)) (rootDigested_full hcan (vouches_false hnew) hnone)
  · rw [← hota] at hnew hcan
    rw [hexec hrun]
    exact congrArg (fun x => Host.Outcome.next (State.settle x)) (rootDigested_entry hcan (vouches_false hnew) he hfirst)
  case composite =>
    have hchan : who.chan = ch := by
      rw [hwho]
      cases ch <;> rfl
    have hgranted : u.granted ch r.domain = s.granted ch r.domain := by
      rw [hu]
      cases ch <;> rfl
    have hgen : u.store.gen slot = s.store.gen slot := by rw [hu]; rfl
    have howner : u.owner = s.owner := by rw [hu]; rfl
    have hdigest : exec .finishDigestEnd s = .next (u.compositeDigested ch slot gen r cleared d).settle := by
      rw [hexec hrun, ← hchan]
      rfl
    rw [hdigest, ← hgranted, ← hgen, ← howner]
    refine ⟨fun hother => ?_, fun hsame hother => ?_, fun hsame hkept => ⟨fun hdenied => ?_, fun hright hgrant =>
      ⟨fun hcleared => ?_, fun hstands => ?_⟩⟩⟩
    · rw [compositeDigested_differs hother]
      rfl
    · rw [compositeDigested_written hsame hother]
    · rw [compositeDigested_denied hsame hkept hdenied]
      rfl
    · rw [compositeDigested_passes hsame hkept hright hgrant, if_pos hcleared]
      rfl
    · rw [compositeDigested_passes hsame hkept hright hgrant, if_neg (by simp [hstands])]
  case quote =>
    have hclaimant : who = Chan.claimant ch := hwho.trans (by cases ch <;> rfl)
    have hchan : (Chan.claimant ch).chan = ch := by cases ch <;> rfl
    subst hclaimant
    have hfile : exec .finishDigestEnd s =
        .next ((u.setWork ch (.quoteSign stmt)).fileClaim (Chan.claimant ch) (.signQuote d)).settle := by
      rw [hexec hrun]
      show Host.Outcome.next (State.settle (u.quoteDigested (Chan.claimant ch).chan stmt d)) = _
      rw [hchan]
      rfl
    refine ⟨hfile, fun k hquiet hfree hattest => ?_⟩
    rw [hfile]
    have hattest' : (u.setWork ch (.quoteSign stmt)).engine.attest = some k := by
      rw [State.setWork_engine, hu]
      exact hattest
    refine congrArg _ ((State.settle_claim _ _ _ _ (by simpa using hquiet) (by simpa using hfree) (gather_signQuote hattest')).trans ?_)
    rw [State.setWork_engine]
  · rw [execFinishDigestEnd_of hrun, hu]
    rfl

/-! ### The ends of the flash reads (R162, R163, R165, R181) -/

theorem noFlash_iff (b0 b1 b2 : Byte) :
    noFlash b0 b1 b2 = true ↔ (b0 = 0#8 ∧ b1 = 0#8 ∧ b2 = 0#8) ∨ (b0 = 0xFF#8 ∧ b1 = 0xFF#8 ∧ b2 = 0xFF#8) := by
  simp [noFlash, and_assoc]

theorem overlap_iff (p : PhaseCopy) :
    p.overlap = true ↔ p.base0 < p.base1 + p.size ∧ p.base1 < p.base0 + p.size := by
  simp [PhaseCopy.overlap]

section Reads
variable {s : State} {gone : Bool}

theorem execFlashIdReadDone_of (b0 b1 b2 : Byte) (h : s.checker.flash = some { read := .id, dropped := gone }) :
    exec (.flashIdReadDone b0 b1 b2) s =
      .next (if gone then (s.mapChecker fun c => { c with flash := none }).droppedRead.settle
        else ((s.mapChecker fun c => { c with flash := none }).identified b0 b1 b2).settle) := by
  show execFlashIdReadDone b0 b1 b2 s = _
  unfold execFlashIdReadDone
  rw [h]
  rfl

theorem execManifestReadDone_of (bytes : Bytes) (h : s.checker.flash = some { read := .manifest, dropped := gone }) :
    exec (.manifestReadDone bytes) s =
      .next (if gone then (s.mapChecker fun c => { c with flash := none }).droppedRead.settle
        else ((s.mapChecker fun c => { c with flash := none }).manifestRead bytes).settle) := by
  show execManifestReadDone bytes s = _
  unfold execManifestReadDone
  rw [h]
  rfl

theorem execChunkReadDone_of (bytes : Bytes) {n : Nat} (h : s.checker.flash = some { read := .chunk n, dropped := gone }) :
    exec (.chunkReadDone bytes) s =
      .next (if gone then (s.mapChecker fun c => { c with flash := none }).droppedRead.settle
        else (((s.mapChecker fun c => { c with flash := none }).mapChecker fun c =>
          { c with chunk := fit n 0xFF#8 bytes }).fileClaim .F .hashChunk).settle) := by
  show execChunkReadDone bytes s = _
  unfold execChunkReadDone
  rw [h]
  rfl

end Reads

/-- A byte string of its own length is fitted to itself. -/
theorem fit_self {n : Nat} {bs : Bytes} (x : Byte) (h : bs.length = n) : fit n x bs = bs := by
  rw [fit_take _ n _ _ (by omega), List.take_of_length_le (by omega)]

/-- The header's ten bytes pass the header tests as the whole manifest does (R163). -/
theorem goodHeader_take {bytes : Bytes} (h : 10 ≤ bytes.length) : goodHeader (fit 10 0xFF#8 bytes) = goodHeader bytes := by
  have htake : (fit 10 0xFF#8 bytes).take 10 = bytes.take 10 := by
    rw [fit_take _ 10 _ _ h, List.take_take, Nat.min_self]
  unfold goodHeader manifestCount
  rw [take_of_take htake (show 4 ≤ 10 by omega), byteAt_of_take htake (show 4 < 10 by omega),
    byteAt_of_take htake (show 9 < 10 by omega)]

theorem goodManifest_iff (base size : Nat) (m : Bytes) :
    goodManifest base size m = true ↔
      m.take 4 = ascii "ZMHK" ∧ byteAt m 4 = 1#8 ∧ 1 ≤ (byteAt m 9).toNat ∧ (byteAt m 9).toNat ≤ 16 ∧
        ∀ i g, i < (byteAt m 9).toNat → g = manifestSegment m i →
          g.kind ≠ none ∧ g.lane ≤ 3 ∧ 1 ≤ g.length ∧ g.length ≤ 8388608 ∧ g.offset + g.length ≤ size ∧
            base + g.offset + g.length ≤ 0x1000000 := by
  have hsegment (g : Segment) : goodSegment base size g = true ↔
      g.kind ≠ none ∧ g.lane ≤ 3 ∧ 1 ≤ g.length ∧ g.length ≤ 8388608 ∧ g.offset + g.length ≤ size ∧
        base + g.offset + g.length ≤ 0x1000000 := by
    simp [goodSegment, and_assoc, Option.isSome_iff_ne_none]
  unfold goodManifest goodHeader manifestCount
  simp only [Bool.and_eq_true, beq_iff_eq, decide_eq_true_eq, List.all_eq_true, List.mem_range, hsegment, and_assoc, forall_eq_apply_imp_iff]

theorem manifestRead_eq {s : State} {bytes : Bytes} (hlen : bytes.length = 74 + 42 * (byteAt bytes 9).toNat) :
    s.manifestRead bytes =
      if goodManifest (s.boot.phaseCopy.base s.checker.bank) s.boot.phaseCopy.size bytes then
        ({ s with checker := { s.checker with
            state := .checking, manifest := bytes,
            adm := if s.checker.work = .admission then .checking else s.checker.adm } } : State).fileClaim .F .digestManifest
      else s.checkFailed .badManifest := by
  have hself : manifestOf bytes = bytes := fit_self _ hlen
  have hheader : (goodHeader (fit 10 0xFF#8 bytes) &&
      goodManifest (s.boot.phaseCopy.base s.checker.bank) s.boot.phaseCopy.size bytes) =
        goodManifest (s.boot.phaseCopy.base s.checker.bank) s.boot.phaseCopy.size bytes := by
    rw [goodHeader_take (by omega)]
    unfold goodManifest
    rw [← Bool.and_assoc, Bool.and_self]
  have hstep : (s.mapChecker fun c => { c.setStep .checking with manifest := bytes }) =
      { s with checker := { s.checker with
            state := .checking, manifest := bytes,
            adm := if s.checker.work = .admission then .checking else s.checker.adm } } := by
    cases hwork : s.checker.work <;> simp [State.mapChecker, Checker.setStep, hwork]
  unfold State.manifestRead
  dsimp only
  rw [hself, hheader, hstep]

theorem droppedRead_of (s : State) :
    ((∀ prev, s.chA.work ≠ .abortWait prev) → s.droppedRead = s) ∧
    (∀ prev, s.chA.work = .abortWait prev → s.droppedRead = s.finishAbort prev) := by
  unfold State.droppedRead
  refine ⟨fun h => ?_, fun prev h => ?_⟩
  · split
    · rename_i prev hwork
      exact absurd hwork (h prev)
    · rfl
  · have hstage : s.work .A = .abortWait prev := h
    simp only [hstage]

/-- Settles O44: each read's end by its cases, and the end of a read whose bytes are dropped. -/
theorem flashReadsAdvanceTheCheck : Obligations.FlashReadsAdvanceTheCheck := by
  intro s u b0 b1 b2 bytes hu
  have hmap : (s.mapChecker fun c => { c with flash := none }) = u := by rw [hu]; rfl
  have hboot : u.boot = s.boot := by rw [hu]
  have hbank : u.checker.bank = s.checker.bank := by rw [hu]
  refine ⟨fun hread => ?id, fun hread count good hcount hlen hgood => ?manifest, fun hread => ?chunk, fun n r c hmem hread => ?gone⟩
  case id =>
    rw [execFlashIdReadDone_of b0 b1 b2 hread, hmap]
    refine ⟨fun hnone => ?_, fun hsome => ⟨fun hover => ?_, fun hapart => ?_⟩⟩
    · exact congrArg (fun x => Host.Outcome.next (State.settle x)) (if_pos ((noFlash_iff _ _ _).2 hnone))
    · obtain ⟨hb, hmeet⟩ := hover
      refine congrArg (fun x => Host.Outcome.next (State.settle x)) ((if_neg (mt (noFlash_iff _ _ _).1 hsome)).trans (if_pos ?_))
      rw [hbank, hboot, overlap_iff]
      exact ⟨hb, hmeet⟩
    · refine congrArg (fun x => Host.Outcome.next (State.settle x)) ((if_neg (mt (noFlash_iff _ _ _).1 hsome)).trans ((if_neg ?_).trans ?_))
      · rw [hbank, hboot, overlap_iff]
        rintro ⟨hb, hmeet⟩
        obtain h | h | h := hapart
        · rw [h] at hb
          cases hb
        · omega
        · omega
      · rw [hu]
        rfl
  case manifest =>
    subst hcount
    have hm : goodManifest (u.boot.phaseCopy.base u.checker.bank) u.boot.phaseCopy.size bytes = good := by
      rw [hboot, hbank, Bool.eq_iff_iff, goodManifest_iff, hgood]
    rw [execManifestReadDone_of bytes hread, hmap]
    refine ⟨fun hbad => ?_, fun hpass => ?_⟩
    · refine congrArg (fun x => Host.Outcome.next (State.settle x)) ((manifestRead_eq hlen).trans (if_neg ?_))
      rw [hm, hbad]
      exact Bool.false_ne_true
    · refine congrArg (fun x => Host.Outcome.next (State.settle x)) ((manifestRead_eq hlen).trans ((if_pos (hm.trans hpass)).trans ?_))
      rw [hu]
  case chunk =>
    rw [execChunkReadDone_of bytes hread, fit_self _ rfl]
    rfl
  case gone =>
    obtain ⟨hnone, habort⟩ := droppedRead_of u
    have hexec : exec c s = .next u.droppedRead.settle := by
      simp only [List.mem_cons, List.not_mem_nil, or_false, Prod.mk.injEq] at hmem
      obtain ⟨rfl, rfl⟩ | ⟨rfl, rfl⟩ | ⟨rfl, rfl⟩ := hmem
      · rw [execFlashIdReadDone_of b0 b1 b2 hread, hmap]
        rfl
      · rw [execManifestReadDone_of bytes hread, hmap]
        rfl
      · rw [execChunkReadDone_of bytes hread, hmap]
        rfl
    have hwork : u.chA.work = s.chA.work := by rw [hu]
    rw [hexec]
    refine ⟨fun h => ?_, fun prev h => ?_⟩
    · rw [hnone (by rwa [hwork])]
    · rw [habort prev (hwork.trans h), hu]
      rfl

end Sys2Proof.Machine

/-! Failed checks, and the record of each boot record change (O45). -/
namespace Sys2Proof.Machine

/-! ### A failed check (R158, R159, R177) -/

section Failed
variable {s u : State} {r : CheckReason} {b : Bank} (hwork : s.checker.work = .boot) (hb : b = s.checker.bank)
  (hu : u = { s with checker := s.checker.discard, boot := s.boot.setReason b (.check r) })
include hwork hb hu

/-- A failed boot check: the bank is to be REJECTED in the record, or bank choice goes on. -/
theorem checkFailed_boot :
    s.checkFailed r =
      if (s.boot.record.bank b).state = .trial ∨ (s.boot.record.bank b).state = .admitted then
        (u.mapBoot fun bt => { bt with stage := .rejectWait b }).ask (.reject b)
      else u.nextBank b (s.boot.stage == .checking b true) := by
  subst hb
  have hrecord : u.boot.record = s.boot.record := by rw [hu]; cases s.checker.bank <;> rfl
  unfold State.checkFailed
  rw [hwork, ← hrecord]
  subst hu
  rfl

theorem checkFailed_rejects (h : (s.boot.record.bank b).state = .trial ∨ (s.boot.record.bank b).state = .admitted) :
    s.checkFailed r =
      { u with boot := { u.boot with
          stage := .rejectWait b, changes := s.boot.changes ++ [{ change := .reject b, live := true }] } } := by
  have hchanges : u.boot.changes = s.boot.changes := by rw [hu]; cases b <;> rfl
  rw [checkFailed_boot hwork hb hu, if_pos h, ← hchanges]
  rfl

variable (hunknown : (s.boot.record.bank b).state = .unknown) (hstage : s.boot.stage = .checking b true)
include hunknown hstage

theorem checkFailed_factory : s.checkFailed r = u.nextBank b true := by
  rw [checkFailed_boot hwork hb hu, if_neg (by simp [hunknown]), hstage, beq_self_eq_true]

end Failed

theorem checkFailed_admission {s : State} {r : CheckReason} (hwork : s.checker.work = .admission) :
    s.checkFailed r = s.failAdmission (.check r) := by
  unfold State.checkFailed
  rw [hwork]

/-! ### The record of each change (R153, R156 to R160, R171, R176, R178, R187, R189) -/

@[simp] theorem setBank_self (r : BootRec) (b : Bank) (x : BankRec) : (r.setBank b x).bank b = x := by cases b <;> rfl

@[simp] theorem setBank_other (r : BootRec) (b : Bank) (x : BankRec) : (r.setBank b x).bank b.other = r.bank b.other := by
  cases b <;> rfl

@[simp] theorem setBank_preferred (r : BootRec) (b : Bank) (x : BankRec) : (r.setBank b x).preferred = r.preferred := by
  cases b <;> rfl

/-- The preferred bank is no part of what a bank's entry is. -/
@[simp] theorem bank_withPreferred (r : BootRec) (p b : Bank) : ({ r with preferred := p } : BootRec).bank b = r.bank b := by
  cases b <;> rfl

theorem rejectBank_eq (r : BootRec) (b : Bank) :
    (r.rejectBank b).bank b = { r.bank b with state := .rejected, trials := 0 } ∧
    (r.rejectBank b).bank b.other = r.bank b.other ∧
    (r.rejectBank b).preferred = if r.preferred = b ∧ (r.bank b.other).state = .admitted then b.other else r.preferred := by
  unfold BootRec.rejectBank
  dsimp only
  split <;> simp

theorem confirmReject_eq (r : BootRec) (b : Bank) :
    (r.apply (.confirmReject b)).bank b = { r.bank b with state := .rejected, trials := 0 } ∧
    (r.apply (.confirmReject b)).bank b.other = r.bank b.other ∧
    (r.apply (.confirmReject b)).preferred = if r.preferred = b then b.other else r.preferred := by
  unfold BootRec.apply
  dsimp only
  split <;> simp

theorem eq_other {x y : Bank} (h : x ≠ y) : y = x.other := by
  cases x <;> cases y
  · exact absurd rfl h
  · rfl
  · rfl
  · exact absurd rfl h

/-- Settles O45: a failed check by the check's work and the bank's state, and the record that each change builds. -/
theorem failedChecksAndRecordChanges : Obligations.FailedChecksAndRecordChanges := by
  refine ⟨fun s r => ⟨fun hwork b u hb hu => ?boot, fun hwork => ?_⟩, fun r b e d => ⟨fun x y hxy => ?counted, rfl, ?claiming,
    ?commit, ?confirm, fun c hc => ?reject, fun f => ?passed, confirmReject_eq r b⟩⟩
  case boot =>
    have hu' : u = { s with checker := s.checker.discard, boot := s.boot.setReason b (.check r) } := by
      rw [hu]
      cases b <;> rfl
    refine ⟨fun hknown => checkFailed_rejects hwork hb hu' hknown, fun hunknown hstage hb0 => ?_, fun hunknown hstage hb1 => ?_⟩
    · rw [checkFailed_factory hwork hb hu' hunknown hstage]
      subst hb0
      rw [show u.nextBank .b0 true = u.startCheck .b1 true from rfl, State.startCheck_eq, hu']
      rfl
    · rw [checkFailed_factory hwork hb hu' hunknown hstage]
      subst hb1
      rfl
  · rw [checkFailed_admission hwork]
    rfl
  case counted =>
    rw [eq_other hxy]
    simp [BootRec.apply]
  case claiming => simp [BootRec.apply, zeros32]
  case commit => simp [BootRec.apply]
  case confirm => simp [BootRec.apply]
  case reject =>
    obtain rfl | rfl := hc
    · exact rejectBank_eq r b
    · exact rejectBank_eq r b
  case passed => simp [BootRec.apply, BootRec.afterPass]

end Sys2Proof.Machine

/-! RELEASE RECOVERY and the platform restart (O46). -/
namespace Sys2Proof.Machine

/-! ### Entries freed by a condition (R130) -/

/-- One entry under an invalidation. -/
def CtxEntry.freeIf (p : Ctx → Bool) (e : CtxEntry) : CtxEntry := if e.ctx.any p then e.free else e

theorem freeIf_none {p : Ctx → Bool} {e : CtxEntry} (h : e.ctx = none) : e.freeIf p = e := by
  unfold CtxEntry.freeIf
  rw [h]
  rfl

theorem freeIf_some {p : Ctx → Bool} {e : CtxEntry} {c : Ctx} (h : e.ctx = some c) :
    e.freeIf p = if p c then { epoch := e.epoch + 1#8, ctx := none } else e := by
  unfold CtxEntry.freeIf CtxEntry.free
  rw [h]
  rfl

theorem invalidate_eq (t : CtxTable) (p : Ctx → Bool) : t.invalidate p = { t with entries := t.entries.map (CtxEntry.freeIf p) } := by
  have hentry (e : CtxEntry) : (match e.ctx with
      | none => e
      | some c => if p c then e.free else e) = e.freeIf p := by
    unfold CtxEntry.freeIf
    cases e.ctx <;> rfl
  unfold CtxTable.invalidate
  exact congrArg (fun f => ({ t with entries := t.entries.map f } : CtxTable)) (funext hentry)

/-- Two invalidations are one by either condition. -/
theorem freeIf_freeIf (p q : Ctx → Bool) (e : CtxEntry) : (e.freeIf p).freeIf q = e.freeIf fun c => p c || q c := by
  cases h : e.ctx with
  | none => rw [freeIf_none h, freeIf_none h, freeIf_none h]
  | some c =>
    rw [freeIf_some h, freeIf_some h]
    cases hp : p c with
    | true => exact freeIf_none rfl
    | false =>
      simp only [Bool.false_eq_true, if_false, Bool.false_or]
      exact freeIf_some h

theorem invalidate_invalidate (t : CtxTable) (p q : Ctx → Bool) :
    (t.invalidate p).invalidate q = t.invalidate fun c => p c || q c := by
  simp only [invalidate_eq, List.map_map]
  congr 2
  funext e
  exact freeIf_freeIf p q e

theorem invalidate_false (t : CtxTable) : t.invalidate (fun _ => false) = t := by
  have hid : CtxEntry.freeIf (fun _ => false) = id := by
    funext e
    cases h : e.ctx with
    | none => exact freeIf_none h
    | some c => exact freeIf_some h
  rw [invalidate_eq, hid, List.map_id]

/-- What is LOADED after an invalidation was LOADED before it, and the condition does not hold of it. -/
theorem loaded_of_invalidate {t : CtxTable} {p : Ctx → Bool} {e : CtxEntry} {c : Ctx} (he : e ∈ (t.invalidate p).entries)
    (hc : e.ctx = some c) : e ∈ t.entries ∧ p c = false := by
  rw [invalidate_eq] at he
  obtain ⟨x, hx, rfl⟩ := List.mem_map.1 he
  cases h : x.ctx with
  | none =>
    rw [freeIf_none h, h] at hc
    cases hc
  | some y =>
    rw [freeIf_some h] at hc ⊢
    cases hp : p y with
    | true =>
      rw [hp] at hc
      cases hc
    | false =>
      rw [hp] at hc
      have hy : x.ctx = some c := hc
      rw [h] at hy
      cases hy
      exact ⟨hx, hp⟩

/-! ### The restart in one record (R170) -/

/-- The undo of an attempt changes the hold-off table alone (R109). -/
theorem undoAttempt_eq (s : State) :
    s.undoAttempt = { s with owner := { s.owner with table := s.undoAttempt.owner.table } } := by
  obtain ⟨tb, h⟩ := s.undoAttempt_table
  rw [h]

/-- What a restart frees of the context table: channel A's entries, those of an owner grant that ends, and those bound to a lane. -/
def restartFrees (ends : Bool) (c : Ctx) : Bool := c.owner == .A || (ends && c.needsOwner || c.mask != 0#8)

theorem restartFrees_iff (ends : Bool) (c : Ctx) :
    restartFrees ends c = true ↔ c.owner = .A ∨ c.mask ≠ 0#8 ∨ (ends = true ∧ c.needsOwner = true) := by
  simp only [restartFrees, Bool.or_eq_true, Bool.and_eq_true, beq_iff_eq, bne_iff_ne]
  rw [or_comm (a := _ ∧ _)]

/-- The engine after a restart: channel A's work and the image checker's goes on without effect. -/
def Engine.restarted (e : Engine) : Engine :=
  { e.restart with
    claimF := e.claimF.map fun p => { p with dropped := true },
    running := e.restart.running.map fun r => { r with dropped := r.dropped || r.who == .F } }

/-- The image checker after a restart. -/
def Checker.restarted (c : Checker) : Checker :=
  { ({ c with flash := c.flash.map fun f => { f with dropped := true } } : Checker).restart with fown := true }

/-- The restart over a hold-off table given. -/
theorem restart_of_table (s : State) (table : List HoldEntry)
    (h : s.undoAttempt = { s with owner := { s.owner with table := table } }) :
    s.restart =
      { s with
        hold := true, link := { s.link with line := s.link.line.closeA }, chA := Channel.reset, engine := s.engine.restarted,
        store := s.store.restart (s.boot.active.any fun a => a.asked.change.chan == some .A),
        owner := { s.owner with
          table := table, grant := none, idleDue := if s.owner.grant.isSome then false else s.owner.idleDue },
        ctx := s.ctx.invalidate (restartFrees s.owner.grant.isSome),
        meas := { lanes := List.replicate 8 zeros32, log := [], bootOpen := true },
        checker := s.checker.restarted,
        boot := { s.boot.restartChanges (s.store.taken.any fun t => t.job.filer == .boot) with
          stage := .phaseWait, state := .verifying, mode := .none, booted := none } } := by
  have hctx : s.ctx.invalidate (restartFrees s.owner.grant.isSome) =
      ((s.ctx.invalidate (·.owner == .A)).invalidate fun c => s.owner.grant.isSome && c.needsOwner).invalidate (·.mask != 0#8) := by
    rw [invalidate_invalidate, invalidate_invalidate]
    rfl
  rw [hctx]
  unfold State.restart
  rw [h]
  cases s with
  | mk power rcv hold link chS chA settings engine ota store guard owner ctx meas boot checker pending =>
    obtain ⟨uptime, tbl, grant, idleDue⟩ := owner
    cases grant with
    | none =>
      simp only [Option.isSome_none, Bool.false_and, invalidate_false]
      rfl
    | some g =>
      simp only [Option.isSome_some, Bool.true_and]
      rfl

/-! ### Its parts, as the rules tell them (R34, R79, R109, R153, R184, R190) -/

/-- A job that runs at a restart goes on, without effect unless it is channel S's (R34). -/
theorem restarted_running {e : Engine} {r : Running} (h : e.running = some r) :
    ∃ r', e.restarted.running = some r' ∧ r'.who = r.who ∧ (r.who = .S → r'.dropped = r.dropped) ∧
      (r.who ≠ .S → r'.dropped = true) ∧ ((∀ p st final, r.job ≠ .finishDigest p st final) → r'.job = r.job) := by
  have hmap : e.restarted.running = e.restart.running.map fun r => { r with dropped := r.dropped || r.who == .F } := rfl
  rw [hmap]
  unfold Engine.restart
  rw [h]
  refine ⟨_, rfl, rfl, fun hS => ?_, fun hother => ?_, fun hjob => ?_⟩
  · show ((r.dropped || r.who == .A) || r.who == .F) = r.dropped
    rw [hS]
    cases r.dropped <;> rfl
  · cases hwho : r.who with
    | S => exact absurd hwho hother
    | A => simp [hwho]
    | F => simp [hwho]
  · cases hj : r.job with
    | finishDigest p st final => exact absurd hj (hjob p st final)
    | _ => simp only [hj]

theorem running_iff (a : AdmState) :
    a.running = true ↔ a = .claiming ∨ a = .reading ∨ a = .checking ∨ a = .hashing ∨ a = .committing := by
  cases a <;> simp [AdmState.running]

theorem checker_restarted (c : Checker) :
    c.restarted = { c.discard with
      fown := true, claimed := false, result := none, flash := c.flash.map fun f => { f with dropped := true },
      adm := if c.adm.running then .failed else .idle, admBank := if c.adm.running then c.admBank else none,
      admReason := if c.adm.running then some .aborted else none } := by
  unfold Checker.restarted Checker.restart
  dsimp only
  cases c.adm.running <;> rfl

theorem isConfirm_iff (c : Change) : c.isConfirm = true ↔ ∃ b e d, c = .confirmBank b e d := by
  cases c <;> simp [Change.isConfirm]

section RestartChanges
variable {b : Boot} {taken : Bool}

/-- A confirmation goes on without its reply, unless its first step is among what the restart discards (R190). -/
theorem restartChanges_confirm {k : Confirm} {cut : Prop} (hk : b.confirm = some k)
    (hcut : cut ↔ (∃ a x e d, a ∈ b.changes ∧ a.change = .confirmBank x e d) ∨
      (∃ a x e d, b.active = some a ∧ a.asked.change = .confirmBank x e d) ∧ taken = false) :
    (cut → (b.restartChanges taken).confirm = none) ∧
    (¬ cut → (b.restartChanges taken).confirm = some { k with live := false }) := by
  have hconfirm : (b.restartChanges taken).confirm =
      if (b.changes.any (fun a => a.change.isConfirm) || b.active.any fun a => a.asked.change.isConfirm && !taken) then none
      else b.confirm.map fun c => { c with live := false } := rfl
  have hany : (b.changes.any (fun a => a.change.isConfirm) || b.active.any fun a => a.asked.change.isConfirm && !taken) = true ↔
      cut := by
    rw [hcut, Bool.or_eq_true, List.any_eq_true, Option.any_eq_true]
    simp only [Bool.and_eq_true, Bool.not_eq_true', isConfirm_iff]
    constructor
    · rintro (⟨a, ha, x, e, d, h⟩ | ⟨a, ha, ⟨x, e, d, h⟩, hno⟩)
      · exact .inl ⟨a, x, e, d, ha, h⟩
      · exact .inr ⟨⟨a, x, e, d, ha, h⟩, hno⟩
    · rintro (⟨a, x, e, d, ha, h⟩ | ⟨⟨a, x, e, d, ha, h⟩, hno⟩)
      · exact .inl ⟨a, ha, x, e, d, h⟩
      · exact .inr ⟨a, ha, ⟨x, e, d, h⟩, hno⟩
  rw [hconfirm]
  refine ⟨fun h => if_pos (hany.2 h), fun h => ?_⟩
  rw [if_neg (mt hany.1 h), hk]
  rfl

/-- The outstanding change is discarded when it is channel A's and untaken, and goes on otherwise (R153). -/
theorem restartChanges_active {a : Active} {gone : Prop} (ha : b.active = some a)
    (hgone : gone ↔ a.asked.change.chan = some .A ∧ taken = false) :
    (gone → (b.restartChanges taken).active = none) ∧
    (¬ gone → (b.restartChanges taken).active =
      some { a with asked := { a.asked with live := a.asked.change.chan != some .A } }) := by
  have hactive : (b.restartChanges taken).active =
      if (taken || b.active.any fun a => a.asked.change.chan != some .A) then
        b.active.map fun a => { a with asked := { a.asked with live := a.asked.change.chan != some .A } }
      else none := rfl
  rw [hactive, ha, hgone]
  refine ⟨?_, fun h => ?_⟩
  · rintro ⟨hA, rfl⟩
    exact if_neg (by simp [hA])
  · rw [if_pos]
    · rfl
    · cases taken with
      | true => rfl
      | false => simpa using h

end RestartChanges

/-- The attempt that a restart finds is undone when its pre-charge is untaken and its entry still stands (R109). -/
theorem undoAttempt_table_cases {s : State} {untaken : Prop}
    (huntaken : untaken ↔ ∀ x, s.store.taken = some x → x.job.filer = .precharge → x.job.orphan = true) :
    ((∀ n cand before, s.chA.work ≠ .verifyPrecharge n cand before) → s.undoAttempt.owner.table = s.owner.table) ∧
    (∀ n cand before, s.chA.work = .verifyPrecharge n cand before →
      (¬ untaken ∨ s.owner.entry n = none → s.undoAttempt.owner.table = s.owner.table) ∧
      (untaken → s.owner.entry n ≠ none →
        (∀ e, before = some e → s.undoAttempt.owner.table = (s.setHold e).owner.table) ∧
        (before = none → s.undoAttempt.owner.table = s.owner.table.filter fun e => e.slot != n))) := by
  have htaken : (s.store.taken.any fun t => t.job.filer == .precharge && !t.job.orphan) = false ↔ untaken := by
    rw [huntaken, Bool.eq_false_iff, Ne, Option.any_eq_true]
    simp
  unfold State.undoAttempt
  refine ⟨fun hnone => ?_, fun n cand before hwork => ⟨fun hstays => ?_, fun hundone hentry => ⟨fun e he => ?_, fun he => ?_⟩⟩⟩
  · split
    · rename_i n cand before hwork
      exact absurd hwork (hnone n cand before)
    · rfl
  all_goals
    have hstage : s.work .A = .verifyPrecharge n cand before := hwork
    simp only [hstage]
  · rw [if_pos]
    rw [Bool.or_eq_true, Option.isNone_iff_eq_none]
    refine hstays.imp_left fun h => ?_
    rwa [← htaken, Bool.not_eq_false] at h
  · rw [if_neg (by simp [htaken.2 hundone, hentry]), he]
  · rw [if_neg (by simp [htaken.2 hundone, hentry]), he]

/-! ### RELEASE RECOVERY (R143, R168) -/

theorem execReleaseRecovery_of_request {s : State} (hreq : s.request .S 0x61#8 = some []) :
    exec .releaseRecovery s =
      .next (if (s.boot.state = .waiting ∨ s.boot.state = .bootFailed) ∧ s.ota.lifecycle ≠ .failed then
          (s.setWork .S .recoveryMarker).fileClaim .S .extendRecovery
        else s.refuse .S .wrongState).settle := serveWork_of_request hreq _

theorem execRestartPlatform_of_request {s : State} {ch : Chan} (hreq : s.request ch 0x62#8 = some []) :
    (s.boot.state ≠ .released → exec (.restartPlatform ch) s = .next (s.refuse ch .wrongState).settle) ∧
    (s.boot.state = .released →
      exec (.restartPlatform ch) s =
        .next (if ch = .S then s.restart.reply .S .ok [s.restart.boot.state.code] else s.restart).settle) := by
  have hexec := serveWork_of_request hreq fun body => s.emptyBody ch body
    (if s.inBootPhase then s.refuse ch .wrongState
      else if ch = .S then s.restart.reply .S .ok [s.restart.boot.state.code] else s.restart)
  have hsame : exec (.restartPlatform ch) s = s.serveWork ch 0x62#8 fun body => s.emptyBody ch body
      (if s.inBootPhase then s.refuse ch .wrongState
        else if ch = .S then s.restart.reply .S .ok [s.restart.boot.state.code] else s.restart) := by
    cases ch <;> rfl
  rw [hsame, hexec]
  refine ⟨fun hphase => ?_, fun hreleased => ?_⟩
  · exact congrArg (fun x => Host.Outcome.next (State.settle x)) (if_pos (by simp [State.inBootPhase, hphase]))
  · exact congrArg (fun x => Host.Outcome.next (State.settle x)) (if_neg (by simp [State.inBootPhase, hreleased]))

/-- Settles O46: the take of both requests, and the restart read off its record. -/
theorem recoveryAndRestart : Obligations.RecoveryAndRestart := by
  intro s hquiet
  refine ⟨fun hreq => ⟨fun hrefused => ?_, fun hphase hlife hfree => ?_⟩, fun ch hreq => ⟨fun hphase => ?_, fun hreleased => ?_⟩⟩
  · have hno : ¬ ((s.boot.state = .waiting ∨ s.boot.state = .bootFailed) ∧ s.ota.lifecycle ≠ .failed) := by
      obtain h | h | h := hrefused <;> simp [h]
    rw [execReleaseRecovery_of_request hreq, if_neg hno, settle_refuse hquiet]
  · rw [execReleaseRecovery_of_request hreq, if_pos ⟨hphase, hlife⟩]
    exact congrArg _ (State.settle_claim (s.setWork .S .recoveryMarker) .S _ _ (by simpa using hquiet) (by simpa using hfree) rfl)
  · rw [(execRestartPlatform_of_request hreq).1 hphase, settle_refuse hquiet]
  · obtain ⟨t, chS, ht, hexec, hS, hA⟩ : ∃ (t : State) (chS : Channel), t = { s.restart with chS := chS } ∧
        exec (.restartPlatform ch) s = .next t.settle ∧
        (ch = .S → chS = { s.chS with state := .replyReady, work := .none, reply := some { status := .ok, body := [2#8] } }) ∧
        (ch = .A → chS = s.chS) := by
      rw [(execRestartPlatform_of_request hreq).2 hreleased, restart_of_table s _ (undoAttempt_eq s)]
      cases ch with
      | S => exact ⟨_, _, rfl, rfl, fun _ => rfl, fun h => nomatch h⟩
      | A => exact ⟨_, _, rfl, rfl, (fun h => nomatch h), fun _ => rfl⟩
    rw [restart_of_table s _ (undoAttempt_eq s)] at ht
    have huntaken : (s.store.taken.any fun t => t.job.filer == .boot) = false ↔
        ∀ x, s.store.taken = some x → x.job.filer ≠ .boot := by
      rw [Bool.eq_false_iff, Ne, Option.any_eq_true]
      simp
    refine ⟨t, hexec, ?_⟩
    subst ht
    refine ⟨rfl, rfl, rfl, rfl, rfl, rfl, rfl, rfl, rfl, rfl, rfl, rfl, rfl, rfl, rfl, rfl, rfl, rfl, fun h => ?_,
      fun r h => restarted_running h, rfl, fun running h => ?_, rfl, fun h => ?_, fun k cut hk hcut => ?_, fun untaken h => ?_,
      fun e c he hc => ?_, ?_, ?_, fun h => ?_, fun a gone ha hgone => ?_, hS, hA⟩
    · show (s.engine.running.map _).map _ = none
      rw [h]
      rfl
    · have hrunning : s.checker.adm.running = running := by rw [Bool.eq_iff_iff, h, running_iff]
      exact (checker_restarted _).trans (by rw [hrunning])
    · show (if _ then none else s.boot.confirm.map _) = none
      rw [h]
      split <;> rfl
    · exact restartChanges_confirm hk (by rw [hcut, huntaken])
    · exact undoAttempt_table_cases h
    · obtain ⟨-, hkept⟩ := loaded_of_invalidate he hc
      rw [Bool.eq_false_iff, Ne, restartFrees_iff, not_or, not_or, Classical.not_not, not_and, Bool.not_eq_true] at hkept
      obtain ⟨howner, hmask, hneeds⟩ := hkept
      refine ⟨?_, hmask, hneeds⟩
      cases hch : c.owner with
      | S => rfl
      | A => exact absurd hch howner
    · refine (invalidate_eq _ _).trans ?_
      congr 2
      funext e
      cases hctx : e.ctx with
      | none => exact freeIf_none hctx
      | some c =>
        exact (freeIf_some hctx).trans (ite_congr (propext (restartFrees_iff _ c)) (fun _ => rfl) fun _ => rfl)
    · cases hline : s.link.line with
      | write c n => cases c <;> rfl
      | readReply c n => cases c <;> rfl
      | _ => rfl
    · show (if _ then s.boot.active.map _ else none) = none
      rw [h]
      split <;> rfl
    · exact restartChanges_active ha (by rw [hgone, huntaken])

end Sys2Proof.Machine

/-! SELECT BANK and ADMIT BANK, the filing of boot record changes, their ends, and the first read of a check (O47). -/
namespace Sys2Proof.Machine

/-! ### The take of SELECT BANK and ADMIT BANK (R171, R175, R176) -/

theorem parseBank_of {n : Byte} {b : Bank} (h : n = (match b with | .b0 => 0#8 | .b1 => 1#8)) : parseBank [n] = some b := by
  subst h
  cases b <;> rfl

theorem isBooted_iff (s : State) (b : Bank) : s.isBooted b = true ↔ s.boot.mode = .normal ∧ s.boot.booted = some b := by
  simp [State.isBooted]

theorem isBooted_false {s : State} {b : Bank} (h : s.boot.mode ≠ .normal ∨ s.boot.booted ≠ some b) : s.isBooted b = false := by
  rw [Bool.eq_false_iff, Ne, isBooted_iff, Classical.not_and_iff_not_or_not]
  exact h

theorem belowFloor_iff (o : Ota) (e : Epochs) :
    o.belowFloor e = true ↔ e.loader < o.loader ∨ e.system < o.system ∨ e.radio < o.radio := by
  simp [Ota.belowFloor, or_assoc]

theorem belowFloor_false {o : Ota} {e : Epochs} (h : o.loader ≤ e.loader ∧ o.system ≤ e.system ∧ o.radio ≤ e.radio) :
    o.belowFloor e = false := by
  rw [Bool.eq_false_iff, Ne, belowFloor_iff]
  omega

theorem execSelectBank_of_request {s : State} {n : Byte} {b : Bank} (hreq : s.request .A 0x63#8 = some [n])
    (hbank : parseBank [n] = some b) :
    exec .selectBank s =
      .next (if s.isBooted b then s.refuse .A .badArgument
        else if (s.boot.record.bank b).state ≠ .admitted then s.refuse .A .wrongState
        else if s.ota.belowFloor (s.boot.record.bank b).epochs then s.refuse .A .rollback
        else if s.boot.record.preferred = b then s.refuse .A .ok
        else (s.setWork .A .selectBank).ask (.select b)).settle := by
  refine (serveWork_of_request hreq _).trans ?_
  rw [hbank]

theorem execAdmitBank_of_request {s : State} {n : Byte} {b : Bank} (hreq : s.request .A 0x70#8 = some [n])
    (hbank : parseBank [n] = some b) :
    exec .admitBank s =
      .next (if s.boot.state ≠ .released then s.refuse .A .wrongState
        else if s.checker.adm.running then s.refuse .A .busy
        else if s.isBooted b then s.refuse .A .badArgument
        else (s.startAdmission b).refuse .A .accepted).settle := by
  refine (serveWork_of_request hreq _).trans ?_
  rw [hbank]

/-- A check that waits for its CLAIMING change leaves a quiet state quiet. -/
theorem claiming_quiet {s : State} {c : Checker} (hquiet : s.quiet = true) (hwork : c.work = .admission) (hclaimed : c.claimed = false) :
    ({ s with checker := c } : State).quiet = true := by
  obtain ⟨a1, a2, a3, a4, a5, -, a7, a8⟩ := (State.quiet_iff_parts s).1 hquiet
  refine (State.quiet_iff_parts _).2 ⟨a1, a2, a3, a4, a5, ?_, a7, a8⟩
  simp [hwork, hclaimed]

/-! ### The filing of a change (R153, R178) -/

theorem nextChange_due {s : State} {a : Asked} {rest : List Asked} (hactive : s.boot.active = none)
    (hchanges : s.boot.changes = a :: rest) :
    s.settle1 =
      some { s with boot := { s.boot with active := some { asked := a, built := none }, changes := rest },
                    store := { s.store with waiters := s.store.waiters ++ [.boot] } } := by
  have hnext : s.nextChange =
      some { s with boot := { s.boot with active := some { asked := a, built := none }, changes := rest },
                    store := { s.store with waiters := s.store.waiters ++ [.boot] } } := by
    unfold State.nextChange
    rw [hactive, hchanges]
    rfl
  unfold State.settle1
  rw [hnext]
  rfl

/-- The boot controller's filing is due: it builds the record of its outstanding change, or ends the admission below a floor. -/
theorem fileChange_due {s : State} {x : Active} {rest : List Waiter} (hactive : s.boot.active = some x)
    (hwaiters : s.store.waiters = .boot :: rest) (hroom : s.store.fifo.length < 2) :
    s.settle1 = some ({ s with store := { s.store with waiters := rest } } : State).fileChange := by
  have hnext : s.nextChange = none := (State.nextChange_none s).2 (.inl (by rw [hactive]; rfl))
  have hfile : s.fileWaiter = some ({ s with store := { s.store with waiters := rest } } : State).fileChange := by
    unfold State.fileWaiter
    rw [hwaiters]
    exact if_pos hroom
  unfold State.settle1
  rw [hnext, hfile]
  rfl

section FileChange
variable {s : State} {a : Asked} (hactive : s.boot.active = some { asked := a, built := none })
include hactive

theorem fileChange_files (hfloor : s.commitBelowFloor a.change = false) :
    s.fileChange =
      { s with
        boot := { s.boot with active := some { asked := a, built := some (s.boot.record.apply a.change) } },
        store := { s.store with fifo := s.store.fifo ++ [bootJob a.change (s.boot.record.apply a.change)] } } := by
  unfold State.fileChange
  rw [hactive]
  exact if_neg (by simp [hfloor])

theorem fileChange_below (hfloor : s.commitBelowFloor a.change = true) (hlive : a.live = true) :
    s.fileChange = ({ s with boot := { s.boot with active := none } } : State).failAdmission (.check .rollback) := by
  unfold State.fileChange
  rw [hactive]
  exact (if_pos hfloor).trans (if_pos hlive)

end FileChange

/-! ### Bank choice after a change (R156 to R158) -/

section NextBank
variable {s : State} {p q : Bank} (hpq : p ≠ q) {untried : Prop}
  (huntried : untried ↔ s.boot.assumed ≠ some q ∧ s.boot.tried q = false)
include hpq huntried

/-- The other bank is tried when it is ADMITTED and untried; otherwise the phase fails. -/
theorem nextBank_cases :
    ((s.boot.record.bank q).state = .admitted → untried → s.nextBank p false = s.startCheck q false) ∧
    ((s.boot.record.bank q).state ≠ .admitted ∨ ¬ untried → s.nextBank p false = s.enterFailed) := by
  have hq : p.other = q := (eq_other hpq).symm
  have hstate : s.boot.bankState q = .admitted ↔ s.boot.assumed ≠ some q ∧ (s.boot.record.bank q).state = .admitted := by
    unfold Boot.bankState
    by_cases h : s.boot.assumed = some q <;> simp [h]
  have hnext : s.nextBank p false =
      if s.boot.bankState q = .admitted ∧ s.boot.tried q = false then s.startCheck q false else s.enterFailed := by
    subst hq
    rfl
  rw [hnext, huntried]
  refine ⟨fun hadmitted h => if_pos ⟨hstate.2 ⟨h.1, hadmitted⟩, h.2⟩, fun h => if_neg ?_⟩
  rintro ⟨hbank, htried⟩
  obtain ⟨hassumed, hadmitted⟩ := hstate.1 hbank
  exact h.elim (fun hno => hno hadmitted) fun hno => hno ⟨hassumed, htried⟩

end NextBank

section FirstTry
variable {s : State} {q : Bank} (hpreferred : s.boot.preferred = q)
include hpreferred

theorem firstTry_admitted (h : s.boot.bankState q = .admitted) : s.firstTry = s.startCheck q false := by
  unfold State.firstTry
  simp only [hpreferred, h]

theorem firstTry_trial (h : s.boot.bankState q = .trial) :
    s.firstTry =
      if (s.boot.record.bank q).trials ≤ 2 then (s.mapBoot fun bt => { bt with stage := .incWait q }).ask (.trialInc q)
      else s.enterFailed := by
  unfold State.firstTry
  simp only [hpreferred, h]

/-- Neither bank can be tried: the preferred one is not, and the other is REJECTED or not ADMITTED either. -/
theorem firstTry_fails (h : s.boot.bankState q = .unknown ∧ s.boot.bankState q.other = .rejected ∨
    s.boot.bankState q = .rejected ∧ s.boot.bankState q.other ≠ .admitted) : s.firstTry = s.enterFailed := by
  unfold State.firstTry
  obtain ⟨hq, ho⟩ | ⟨hq, ho⟩ := h
  · simp only [hpreferred, hq, ho]
  · cases hother : s.boot.bankState q.other with
    | admitted => exact absurd hother ho
    | _ => simp only [hpreferred, hq, hother]

end FirstTry

/-- The bank choice after an exhausted trial, as the record and the assumption stand (R156, R157). -/
theorem trialsOut_firstTry {s : State} {p q : Bank} {before : BootRec} {st : Status} (hpq : p ≠ q)
    (hpreferred : before.preferred = p)
    (hcase : st = .ok ∧ s.boot.assumed = none ∧ s.boot.record = before.rejectBank p ∨
      st ≠ .ok ∧ s.boot.assumed = some p ∧ s.boot.record = before) :
    ((before.bank q).state = .admitted → s.firstTry = s.startCheck q false) ∧
    ((before.bank q).state = .trial → st ≠ .ok → (before.bank q).trials ≤ 2 →
      s.firstTry = (s.mapBoot fun bt => { bt with stage := .incWait q }).ask (.trialInc q)) ∧
    ((before.bank q).state = .unknown ∨ (before.bank q).state = .rejected ∨
        (before.bank q).state = .trial ∧ (st = .ok ∨ 3 ≤ (before.bank q).trials) → s.firstTry = s.enterFailed) := by
  have hq : q = p.other := eq_other hpq
  have hp : q.other = p := by rw [hq]; cases p <;> rfl
  obtain ⟨hok, hassumed, hrecord⟩ | ⟨hbad, hassumed, hrecord⟩ := hcase
  · obtain ⟨hself, hother, hpref⟩ := rejectBank_eq before p
    have hstateq : s.boot.bankState q = (before.bank q).state := by
      unfold Boot.bankState
      rw [hassumed, hrecord, hq, hother]
      rfl
    have hstatep : s.boot.bankState p = .rejected := by
      unfold Boot.bankState
      rw [hassumed, hrecord, hself]
      rfl
    have hprefers : s.boot.preferred = if (before.bank q).state = .admitted then q else p := by
      unfold Boot.preferred
      rw [hassumed, hrecord, hpref, hpreferred, hq]
      simp
    have hfails (hno : (before.bank q).state ≠ .admitted) : s.firstTry = s.enterFailed := by
      rw [if_neg hno] at hprefers
      exact firstTry_fails hprefers (.inr ⟨hstatep, by rw [← hq, hstateq]; exact hno⟩)
    refine ⟨fun hadmitted => ?_, fun _ hno => absurd hok hno, fun h => hfails ?_⟩
    · rw [if_pos hadmitted] at hprefers
      exact firstTry_admitted hprefers (hstateq.trans hadmitted)
    · obtain h | h | ⟨h, -⟩ := h <;> simp [h]
  · have hstateq : s.boot.bankState q = (before.bank q).state := by
      unfold Boot.bankState
      rw [hassumed, hrecord, if_neg (by simpa using hpq)]
    have hstatep : s.boot.bankState q.other = .rejected := by
      unfold Boot.bankState
      rw [hp, hassumed, if_pos rfl]
    have hprefers : s.boot.preferred = q := by
      unfold Boot.preferred
      rw [hassumed, hq]
    have htrials : (s.boot.record.bank q).trials = (before.bank q).trials := by rw [hrecord]
    refine ⟨fun hadmitted => firstTry_admitted hprefers (hstateq.trans hadmitted), fun htrial _ hfew => ?_, ?_⟩
    · rw [firstTry_trial hprefers (hstateq.trans htrial), htrials, if_pos hfew]
    · rintro (h | h | ⟨h, hmany⟩)
      · exact firstTry_fails hprefers (.inl ⟨hstateq.trans h, hstatep⟩)
      · exact firstTry_fails hprefers (.inr ⟨hstateq.trans h, by simp [hstatep]⟩)
      · have hthree : 3 ≤ (before.bank q).trials := hmany.resolve_left hbad
        rw [firstTry_trial hprefers (hstateq.trans h), htrials, if_neg (by omega)]

/-! ### The identification read of a check (R162, R176, R183) -/

theorem checkTurn_due {s : State} (hwait : s.checker.startWait = true)
    (hready : s.checker.work = .boot ∨ s.checker.work = .admission ∧ s.checker.claimed = true) :
    s.checkTurn =
      if s.noLeftover then
        some { s with checker := { s.checker with
          state := .reading, startWait := false, claimed := false, flash := some { read := .id, dropped := false },
          adm := if s.checker.work = .admission then .reading else s.checker.adm } }
      else none := by
  unfold State.checkTurn
  obtain hwork | ⟨hwork, hclaimed⟩ := hready
  · cases hleft : s.noLeftover <;> simp [hwait, hwork, State.mapChecker, State.startRead, Checker.setStep]
  · cases hleft : s.noLeftover <;> simp [hwait, hwork, hclaimed, State.mapChecker, State.startRead, Checker.setStep]

theorem noLeftover_iff (s : State) :
    s.noLeftover = true ↔
      ¬ (s.checker.flash ≠ none ∨ s.engine.claimF ≠ none ∨ ∃ r, s.engine.running = some r ∧ r.who = .F) := by
  unfold State.noLeftover
  cases s.engine.running <;> simp [and_assoc]

/-! ### The asker of a change learns its end (R153, R156 to R158, R171, R176, R178) -/

section ChangeEnded
variable {v : State} {st : Status}

theorem changeEnded_select (b : Bank) (live : Bool) :
    v.changeEnded { change := .select b, live := live } st = if live then v.reply .A st [] else v := rfl

/-- An admission's change whose admission is gone (R181). -/
theorem changeEnded_admission_gone {c : Change} (h : ∃ b e d, c = .claiming b ∨ c = .commitAdm b e d) :
    v.changeEnded { change := c, live := false } st = v := by
  obtain ⟨b, e, d, rfl | rfl⟩ := h <;> rfl

theorem changeEnded_admission_fails {c : Change} (h : ∃ b e d, c = .claiming b ∨ c = .commitAdm b e d) (hst : st ≠ .ok) :
    v.changeEnded { change := c, live := true } st = v.failAdmission .storeFault := by
  obtain ⟨b, e, d, rfl | rfl⟩ := h
  · simp [State.changeEnded, hst]
  · simp [State.changeEnded, hst]

theorem changeEnded_reject (p : Bank) (live : Bool) :
    v.changeEnded { change := .reject p, live := live } st = v.nextBank p false := rfl

theorem changeEnded_trialInc_fails (p : Bank) (live : Bool) (hst : st ≠ .ok) :
    v.changeEnded { change := .trialInc p, live := live } st =
      ({ v with boot := (v.boot.setReason p .storeFault).setTried p } : State).nextBank p false := if_neg hst

theorem changeEnded_trialsOut (p : Bank) (live : Bool) :
    v.changeEnded { change := .trialsOut p, live := live } st =
      ({ v with boot := { v.boot.setReason p .trials with
          assumed := if st = .ok then v.boot.assumed else some p } } : State).firstTry := rfl

end ChangeEnded

/-- A boot record job's end, told to its asker: a commit with the built record, or a failure. -/
theorem deliver_boot {s v : State} {j : WriteJob} {a : Asked} {r : BootRec} {o : JobEnd} {st : Status} (hf : j.filer = .boot)
    (hactive : s.boot.active = some { asked := a, built := some r })
    (hcase : (∃ g, o = .commit g ∧ st = .ok ∧ v = { s with boot := { s.boot with active := none, record := r } }) ∨
      o = .fail st ∧ st ≠ .ok ∧ v = { s with boot := { s.boot with active := none } }) : s.deliver j o = v.changeEnded a st := by
  obtain ⟨g, rfl, rfl, rfl⟩ | ⟨rfl, hst, rfl⟩ := hcase
  · exact State.deliver_boot_commit s j a r g hf hactive
  · exact State.deliver_boot_fail s j a r st hf hactive hst

/-- A boot record job's end leaves the image checker as it is. -/
theorem boot_end_checker {s v : State} {r : BootRec} {o : JobEnd} {st : Status}
    (hcase : (∃ g, o = .commit g ∧ st = .ok ∧ v = { s with boot := { s.boot with active := none, record := r } }) ∨
      o = .fail st ∧ st ≠ .ok ∧ v = { s with boot := { s.boot with active := none } }) : v.checker = s.checker := by
  obtain ⟨g, -, -, rfl⟩ | ⟨-, -, rfl⟩ := hcase
  · rfl
  · rfl

/-- Settles O47: the takes, the filing, the ends of the changes, and the first read of a check. -/
theorem selectAndAdmitAskForTheirChange : Obligations.SelectAndAdmitAskForTheirChange := by
  refine ⟨fun s n b hquiet hn => ⟨fun hreq => ?select, fun hreq => ?takes⟩, fun s a rest hactive hchanges => nextChange_due hactive hchanges,
    fun s u a rest r hactive hwaiters hroom hr hu => ⟨fun hfloor => ?_, fun b e d hc hlive hbelow => ?_⟩,
    fun s v j a r o st hf hactive hcase => ⟨deliver_boot hf hactive hcase, fun b hc => ⟨fun hlive => ?_, fun hlive => ?_⟩,
      fun b e d hc => ⟨fun hlive => ?_, fun hlive hst => ?_, fun hlive hst => ⟨fun hc => ?_, fun hc => ?_⟩⟩, fun b f e d hc => ?_,
      fun p q w hpq => ⟨fun hc hst hw => ?_, fun untried hw huntried => ?_, fun hc hr hpreferred hassumed hw => ?_⟩⟩,
    fun s leftover hwait hready hchanges hwaiters hfifo htaken hmarks hqueue hleft => ?read⟩
  case select =>
    rw [execSelectBank_of_request hreq (parseBank_of hn)]
    refine ⟨fun hbooted => ?_, fun hother => ?_⟩
    · rw [if_pos ((isBooted_iff s b).2 hbooted), settle_refuse hquiet]
    · rw [if_neg (by simp [isBooted_false hother])]
      refine ⟨fun hstate => ?_, fun e hstate he => ⟨fun hbelow => ?_, fun hfloor => ⟨fun hsame => ?_, ?_⟩⟩⟩
      · rw [if_pos hstate, settle_refuse hquiet]
      all_goals rw [if_neg (not_not_intro hstate)]
      · rw [if_pos ((belowFloor_iff _ _).2 (he ▸ hbelow)), settle_refuse hquiet]
      all_goals rw [if_neg (by simp [belowFloor_false (he ▸ hfloor)])]
      · rw [if_pos hsame, settle_refuse hquiet]
      · intro st p hdiffers hactive hidle htop hplace
        rw [if_neg hdiffers]
        exact congrArg _ (State.settle_change (s.setWork .A .selectBank) _ st p (by simpa using hquiet) hidle hactive rfl hplace htop)
  case takes =>
    rw [execAdmitBank_of_request hreq (parseBank_of hn)]
    refine ⟨fun hphase => ?_, fun hreleased => ⟨fun hrunning => ?_, fun hidleAdm => ?_⟩⟩
    · rw [if_pos hphase, settle_refuse hquiet]
    all_goals rw [if_neg (not_not_intro hreleased)]
    · rw [if_pos ((running_iff _).2 hrunning), settle_refuse hquiet]
    · have hnot : s.checker.adm.running = false := by obtain h | h | h := hidleAdm <;> rw [h] <;> rfl
      rw [if_neg (by simp [hnot])]
      refine ⟨fun hbooted => ?_, fun st p hother hactive hidle htop hplace => ?_⟩
      · rw [if_pos ((isBooted_iff s b).2 hbooted), settle_refuse hquiet]
      · rw [if_neg (by simp [isBooted_false hother])]
        refine congrArg _ (State.settle_change (({ s with checker := { s.checker.begin .admission b with
          adm := .claiming, admBank := some b, admReason := none, result := none, claimed := false } } : State).reply .A .accepted [])
          (.claiming b) st p ?_ hidle hactive rfl hplace htop)
        rw [State.reply_quiet]
        exact claiming_quiet hquiet rfl rfl
  · have hbuilds : u.commitBelowFloor a.change = false := by
      subst hu
      cases hc : a.change with
      | commitAdm b e d => exact belowFloor_false (hfloor b e d hc)
      | _ => rfl
    rw [fileChange_due hactive hwaiters hroom, ← hu, fileChange_files (by rw [hu]; exact hactive) hbuilds]
    subst hu hr
    obtain ⟨change, live⟩ := a
    cases change <;> rfl
  · have hbuilds : u.commitBelowFloor a.change = true := by
      rw [hc, hu]
      exact (belowFloor_iff _ _).2 hbelow
    rw [fileChange_due hactive hwaiters hroom, ← hu, fileChange_below (by rw [hu]; exact hactive) hbuilds hlive, hu]
    rfl
  · obtain ⟨change, live⟩ := a
    subst hc hlive
    exact deliver_boot hf hactive hcase
  · obtain ⟨change, live⟩ := a
    subst hc hlive
    exact deliver_boot hf hactive hcase
  · obtain ⟨change, live⟩ := a
    subst hlive
    exact (deliver_boot hf hactive hcase).trans (changeEnded_admission_gone ⟨b, e, d, hc⟩)
  · obtain ⟨change, live⟩ := a
    subst hlive
    rw [deliver_boot hf hactive hcase, changeEnded_admission_fails ⟨b, e, d, hc⟩ hst, ← boot_end_checker hcase]
    rfl
  · obtain ⟨change, live⟩ := a
    subst hc hlive hst
    rw [deliver_boot hf hactive hcase, ← boot_end_checker hcase]
    rfl
  · obtain ⟨change, live⟩ := a
    subst hc hlive hst
    rw [deliver_boot hf hactive hcase, ← boot_end_checker hcase]
    rfl
  · obtain ⟨change, live⟩ := a
    subst hc
    exact deliver_boot hf hactive hcase
  · obtain ⟨change, live⟩ := a
    subst hc hst
    rw [deliver_boot hf hactive hcase, ← boot_end_checker hcase, hw]
    exact State.startCheck_eq v p false
  · obtain ⟨change, live⟩ := a
    have hnext : s.deliver j o = ({ v with boot := w } : State).nextBank p false := by
      rw [deliver_boot hf hactive hcase]
      obtain ⟨rfl, rfl⟩ | ⟨rfl, hst, rfl⟩ := hw
      · rfl
      · rw [changeEnded_trialInc_fails _ _ hst]
        cases p <;> rfl
    have huntried' : untried ↔ v.boot.assumed ≠ some q ∧ v.boot.tried q = false := by cases q <;> exact huntried
    clear huntried
    obtain ⟨hassumed, htried, hrecord⟩ : w.assumed = v.boot.assumed ∧ w.tried q = v.boot.tried q ∧ w.record = v.boot.record := by
      obtain ⟨-, rfl⟩ | ⟨-, -, rfl⟩ := hw
      · exact ⟨rfl, rfl, rfl⟩
      · rw [eq_other hpq]
        cases p <;> exact ⟨rfl, rfl, rfl⟩
    obtain ⟨htry, hfail⟩ := nextBank_cases (s := { v with boot := w }) (untried := untried) hpq
      (by rw [huntried', ← htried, ← hassumed])
    rw [hnext, ← hrecord, ← boot_end_checker hcase]
    exact ⟨fun hadmitted h => (htry hadmitted h).trans (State.startCheck_eq _ q false), hfail⟩
  · obtain ⟨change, live⟩ := a
    have hchange : change = .trialsOut p := hc
    subst hchange
    obtain ⟨hassumed', hchanges, hrecord⟩ : v.boot.assumed = none ∧ v.boot.changes = s.boot.changes ∧
        (st = .ok ∧ v.boot.record = s.boot.record.rejectBank p ∨ st ≠ .ok ∧ v.boot.record = s.boot.record) := by
      obtain ⟨g, -, hst, rfl⟩ | ⟨-, hst, rfl⟩ := hcase
      · exact ⟨hassumed, rfl, .inl ⟨hst, hr⟩⟩
      · exact ⟨hassumed, rfl, .inr ⟨hst, rfl⟩⟩
    have hw' : w = { v.boot.setReason p .trials with assumed := if st = .ok then v.boot.assumed else some p } := by
      rw [hw, hassumed']
      cases p <;> rfl
    have hfirst : s.deliver j o = ({ v with boot := w } : State).firstTry := by
      rw [deliver_boot hf hactive hcase, changeEnded_trialsOut, hw']
    have hwrecord : w.record = v.boot.record := by rw [hw']; cases p <;> rfl
    have hwchanges : w.changes = s.boot.changes := by rw [hw', ← hchanges]; cases p <;> rfl
    have hwassumed : w.assumed = if st = .ok then none else some p := by rw [hw', hassumed']
    obtain ⟨htry, hinc, hfail⟩ := trialsOut_firstTry (s := { v with boot := w }) (before := s.boot.record) (st := st) hpq hpreferred (by
      obtain ⟨hst, h⟩ | ⟨hst, h⟩ := hrecord
      · exact .inl ⟨hst, hwassumed.trans (if_pos hst), hwrecord.trans h⟩
      · exact .inr ⟨hst, hwassumed.trans (if_neg hst), hwrecord.trans h⟩)
    rw [hfirst, ← boot_end_checker hcase, ← hwchanges]
    exact ⟨fun h => (htry h).trans (State.startCheck_eq _ q false), fun htrial hst hfew => hinc htrial hst hfew, hfail⟩
  case read =>
    have hdue := checkTurn_due hwait hready
    have hnone := (not_congr hleft).trans (noLeftover_iff s).symm
    refine ⟨fun h => hdue.trans (if_neg fun hno => hnone.2 hno h), fun h => ?_⟩
    have hturn := hdue.trans (if_pos (hnone.1 h))
    unfold State.settle1
    rw [(State.nextChange_none s).2 (.inr hchanges), (State.fileWaiter_none s).2 (.inl hwaiters),
      (State.markTurn_none s).2 (.inl hmarks), (State.otaTurn_none s).2 (.inr hqueue), hturn,
      (State.storeTurn_none s).2 (.inr (.inr ⟨by rw [htaken]; rfl, hfifo⟩))]
    rfl

end Sys2Proof.Machine

/-! ABORT ADMISSION, CONFIRM BOOT, the beginning of a boot phase and the release (O48 to O50). -/
namespace Sys2Proof.Machine

/-! ### ABORT ADMISSION (R181, R182) -/

/-- The aborted admission before its reply: work of claimant F dropped, the CLAIMING change without an asker, the admission FAILED. -/
def State.aborted (s : State) : State :=
  ((s.dropF.mapBoot fun b =>
    { b with changes := b.changes.map Asked.dropClaim,
             active := b.active.map fun a => { a with asked := a.asked.dropClaim } }).mapChecker fun c =>
    { c.discard with adm := .failed, admReason := some .aborted, claimed := false, result := none })

theorem abortAdmission_eq (s : State) :
    s.abortAdmission =
      if s.checker.flash.isSome then s.aborted.setWork .A (.abortWait s.checker.adm) else s.aborted.finishAbort s.checker.adm := by
  have hflash : s.aborted.checker.flash.isSome = s.checker.flash.isSome := Option.isSome_map
  rw [← hflash]
  rfl

/-- An abort leaves a quiet state quiet: nothing of claimant F is withdrawn, and no check waits to start. -/
theorem aborted_quiet {s : State} (hquiet : s.quiet = true) : s.aborted.quiet = true := by
  obtain ⟨a1, a2, a3, a4, a5, -, a7, a8⟩ := (State.quiet_iff_parts s).1 hquiet
  have hclaim (c : Claimant) : (s.aborted.engine.claim c).isSome = (s.engine.claim c).isSome := by
    cases c
    · rfl
    · rfl
    · exact Option.isSome_map
  refine (State.quiet_iff_parts _).2 ⟨?_, a2, a3, a4, a5, rfl, ?_, a8⟩
  · refine a1.imp (fun h => Option.isSome_map.trans h) fun h => ?_
    show s.boot.changes.map Asked.dropClaim = []
    rw [h]
    rfl
  · refine a7.imp (fun h => Option.isSome_map.trans h) fun h => ?_
    simp only [hclaim]
    exact h

theorem finishAbort_quiet {s : State} (hquiet : s.aborted.quiet = true) (prev : AdmState) :
    (s.aborted.finishAbort prev).quiet = true := by
  unfold State.finishAbort
  rw [State.reply_quiet, State.raise_quiet]
  obtain ⟨a1, a2, a3, a4, a5, -, a7, a8⟩ := (State.quiet_iff_parts _).1 hquiet
  exact (State.quiet_iff_parts _).2 ⟨a1, a2, a3, a4, a5, rfl, a7, a8⟩

theorem execAbortAdmission_of_request {s : State} (hreq : s.request .A 0x72#8 = some []) :
    (s.checker.adm = .committing ∨ s.checker.adm = .passed ∨ s.checker.adm = .failed ∨ s.checker.adm = .idle →
      exec .abortAdmission s = .next (s.reply .A .wrongState [s.checker.adm.code]).settle) ∧
    (s.checker.adm = .claiming ∨ s.checker.adm = .reading ∨ s.checker.adm = .checking ∨ s.checker.adm = .hashing →
      exec .abortAdmission s = .next s.abortAdmission.settle) := by
  refine ⟨fun h => (serveWork_of_request hreq _).trans ?_, fun h => (serveWork_of_request hreq _).trans ?_⟩
  · obtain h | h | h | h := h <;> simp only [State.emptyBody, h]
  · obtain h | h | h | h := h <;> simp only [State.emptyBody, h]

/-! ### CONFIRM BOOT (R186 to R190) -/

theorem execConfirmBoot_outside {s : State} (hreq : s.request .A 0x73#8 = some [])
    (h : s.boot.state ≠ .released ∨ s.boot.mode ≠ .normal) : exec .confirmBoot s = .next (s.refuse .A .wrongState).settle := by
  refine (serveWork_of_request hreq _).trans ?_
  simp only [State.emptyBody]
  split
  · rename_i hstate hmode hbooted
    obtain h | h := h
    · exact absurd hstate h
    · exact absurd hmode h
  · rfl

section ConfirmBoot
variable {s : State} {b : Bank} (hreq : s.request .A 0x73#8 = some []) (hstate : s.boot.state = .released)
  (hmode : s.boot.mode = .normal) (hbooted : s.boot.booted = some b)
include hreq hstate hmode hbooted

theorem execConfirmBoot_admitted (h : (s.boot.record.bank b).state = .admitted) :
    exec .confirmBoot s = .next (s.alreadyConfirmed b).settle := by
  refine (serveWork_of_request hreq _).trans ?_
  simp only [State.emptyBody, hstate, hmode, hbooted, h]

theorem execConfirmBoot_trial (h : (s.boot.record.bank b).state = .trial) :
    exec .confirmBoot s = .next (s.startConfirm b).settle := by
  refine (serveWork_of_request hreq _).trans ?_
  simp only [State.emptyBody, hstate, hmode, hbooted, h]

theorem execConfirmBoot_other (h : (s.boot.record.bank b).state = .unknown ∨ (s.boot.record.bank b).state = .rejected) :
    exec .confirmBoot s = .next (s.reply .A .wrongState [(s.boot.record.bank b).state.code]).settle := by
  refine (serveWork_of_request hreq _).trans ?_
  obtain h | h := h <;> simp only [State.emptyBody, hstate, hmode, hbooted, h]

end ConfirmBoot

/-- The boot controller is no part of what the turns look at, but for its changes. -/
theorem boot_quiet {s : State} {b : Boot} (hquiet : s.quiet = true) (hactive : b.active = s.boot.active)
    (hchanges : b.changes = s.boot.changes) : ({ s with boot := b } : State).quiet = true := by
  rw [← hquiet]
  exact State.quiet_congr hactive hchanges rfl rfl rfl rfl rfl

section Confirming
variable {s : State} {k : Confirm} (hk : s.boot.confirm = some k)
include hk

/-- A confirmation that ends, with its reply or, cut from its request, without one (R189, R190). -/
theorem finishConfirm_eq (st : Status) :
    s.finishConfirm st = ({ s with boot := { s.boot with confirm := none } } : State).confirmed k st := by
  have hfault : (k.outs.any fun o => o.status == .otpFault) = true ↔ ∃ o, o ∈ k.outs ∧ o.status = .otpFault := by
    simp
  unfold State.finishConfirm State.confirmed
  simp only [hk, hfault]
  rfl

theorem changeEnded_confirm_fails {b : Bank} {e : Epochs} {d : Bytes} {live : Bool} {st : Status} (hst : st ≠ .ok) :
    s.changeEnded { change := .confirmBank b e d, live := live } st =
      if k.live then ({ s with boot := { s.boot with confirm := none } } : State).reply .A st []
      else { s with boot := { s.boot with confirm := none } } := by
  refine (if_neg hst).trans ?_
  rw [hk]
  rfl

/-- A floor advance of a confirmation: the next of the three, or the judgment of the other bank (R188, R189). -/
theorem confirmAdvanced_cases {k' : Confirm} {u : State} {out : AdvOut} (hk' : k' = { k with outs := k.outs ++ [out] })
    (hu : u = { s with boot := { s.boot with confirm := some k' } }) :
    (k.outs = [] → s.confirmAdvanced out = u.fileOta (.advance .system k.epochs.system .confirm)) ∧
    (∀ o1, k.outs = [o1] → s.confirmAdvanced out = u.fileOta (.advance .radio k.epochs.radio .confirm)) ∧
    (∀ o1 o2, k.outs = [o1, o2] → s.confirmAdvanced out = u.judgeOther k') := by
  unfold State.confirmAdvanced
  rw [hk]
  obtain ⟨bank, epochs, outs, live⟩ := k
  subst hk' hu
  refine ⟨?_, ?_, ?_⟩
  · rintro rfl
    rfl
  · rintro o1 rfl
    rfl
  · rintro o1 o2 rfl
    rfl

end Confirming

theorem judgeOther_cases {s : State} {k : Confirm} {other : BankRec} (hother : other = s.boot.record.bank k.bank.other) :
    ((other.state = .trial ∨ other.state = .admitted) ∧ s.ota.belowFloor other.epochs = true →
      s.judgeOther k = s.ask (.confirmReject k.bank.other)) ∧
    ((other.state = .unknown ∨ other.state = .rejected) ∨ s.ota.belowFloor other.epochs = false →
      s.judgeOther k = s.finishConfirm .ok) := by
  subst hother
  refine ⟨fun h => if_pos h, fun h => if_neg ?_⟩
  rintro ⟨hstate, hbelow⟩
  obtain (h | h) | h := h
  · simp [h] at hstate
  · simp [h] at hstate
  · rw [h] at hbelow
    cases hbelow

/-- Settles O48: the abort by the admission's state and the read in flight; the confirmation from its take to its reply. -/
theorem abortAndConfirm : Obligations.AbortAndConfirm := by
  refine ⟨fun s hquiet hreq => ⟨fun hstate => ?_, fun hstate => ⟨fun hflash => ?_, fun f hflash => ?_⟩⟩,
    fun s hquiet hreq => ⟨fun houtside => ?_, fun b hstate hmode hbooted => ⟨fun h => ?_, fun h => ?_, ?_⟩⟩,
    fun s b e d live => rfl, fun s k hk => ⟨?_, fun c st k' u hk' hu => ?_, ?_⟩⟩
  · rw [(execAbortAdmission_of_request hreq).1 hstate, settle_reply hquiet]
  · rw [(execAbortAdmission_of_request hreq).2 hstate, abortAdmission_eq, if_neg (by simp [hflash]),
      State.settle_quiet _ (finishAbort_quiet (aborted_quiet hquiet) _)]
    refine ⟨s.aborted.mapChecker fun c => { c with fown := false }, rfl, ?_, rfl, rfl, rfl, rfl, rfl, rfl, rfl, rfl⟩
    show { ({ s.checker with flash := s.checker.flash.map _ } : Checker).discard with
      adm := .failed, admReason := some .aborted, claimed := false, result := none, fown := false } = _
    simp [Checker.discard, hflash]
  · have hq : (s.aborted.setWork .A (.abortWait s.checker.adm)).quiet = true := (State.setWork_quiet _ _ _).trans (aborted_quiet hquiet)
    rw [(execAbortAdmission_of_request hreq).2 hstate, abortAdmission_eq, if_pos (by simp [hflash]), State.settle_quiet _ hq]
    refine ⟨s.aborted, rfl, ?_, rfl, rfl, rfl, rfl, rfl⟩
    show { ({ s.checker with flash := s.checker.flash.map _ } : Checker).discard with
      adm := .failed, admReason := some .aborted, claimed := false, result := none } = _
    simp [Checker.discard, hflash]
  · rw [execConfirmBoot_outside hreq houtside, settle_refuse hquiet]
  · rw [execConfirmBoot_admitted hreq hstate hmode hbooted h]
    refine congrArg _ ((settle_reply hquiet _ _ _).trans ?_)
    rw [h]
    rfl
  · rw [execConfirmBoot_other hreq hstate hmode hbooted h, settle_reply hquiet]
  · intro pass st p h hpass hactive hidle htop hplace
    rw [execConfirmBoot_trial hreq hstate hmode hbooted h]
    have hstart : s.startConfirm b =
        ({ s.setWork .A .confirm with boot := { s.boot with
            confirm := some { bank := b, epochs := pass.epochs, outs := [], live := true } } } : State).ask
          (.confirmBank b pass.epochs pass.digest) := by
      unfold State.startConfirm
      rw [hpass]
      rfl
    rw [hstart]
    refine congrArg _ (State.settle_change _ _ st p (boot_quiet ?_ rfl rfl) hidle hactive rfl hplace htop)
    simpa using hquiet
  · rintro b e d live st hst u rfl
    exact changeEnded_confirm_fails hk hst
  · obtain ⟨hfirst, hsecond, hthird⟩ := confirmAdvanced_cases hk hk' hu
    refine ⟨hfirst, hsecond, fun o1 o2 other houts hother => ?_⟩
    have hbank : k'.bank = k.bank := by rw [hk']
    have hrecord : u.boot.record = s.boot.record := by rw [hu]
    have hota : u.ota = s.ota := by rw [hu]
    have hconfirm : u.boot.confirm = some k' := by rw [hu]
    have hended : s.advanceEnded c .confirm st = u.judgeOther k' := hthird o1 o2 houts
    obtain ⟨hreject, hpass⟩ := judgeOther_cases (s := u) (k := k') (other := other) (by rw [hrecord, hbank]; exact hother)
    rw [hota] at hreject hpass
    rw [hended]
    refine ⟨fun h => ?_, fun h => ?_⟩
    · rw [hreject ⟨h.1, (belowFloor_iff _ _).2 h.2⟩, hbank, hu]
      rfl
    · rw [hpass (h.imp_right belowFloor_false), finishConfirm_eq hconfirm, hu]
  · exact fun b live st => finishConfirm_eq hk st

/-! ### The beginning of a boot phase (R155 to R159) -/

theorem execBootPhaseBegin_of {s : State} {clear : Boot} (hstage : s.boot.stage = .phaseWait) (hconfirm : s.boot.confirm = none)
    (htaken : ∀ t, s.store.taken = some t → t.job.filer ≠ .boot)
    (hclear : clear = { s.boot with
      reason0 := .none, reason1 := .none, factory := [], passStatus := none, bootedPass := none, mode := .none,
      booted := none, tried0 := false, tried1 := false, assumed := none,
      phaseCopy := { base0 := s.settings.bank0Base, base1 := s.settings.bank1Base, size := s.settings.bankSize } }) :
    exec .bootPhaseBegin s =
      .next (if s.ota.lifecycle = .failed ∨ s.ota.rootCount = 0 then
          { s with boot := { clear with stage := .waiting, state := .waiting } }
        else ({ s with boot := clear } : State).bankChoice).settle := by
  have hready : s.phaseReady = true := by
    unfold State.phaseReady
    rw [hconfirm]
    cases h : s.store.taken with
    | none => rfl
    | some t => simp [htaken t h]
  subst hclear
  exact if_pos ⟨hstage, hready⟩

section BankChoice
variable {s : State} {p q : Bank} (hpreferred : p = s.boot.record.preferred) (hpq : p ≠ q)
include hpreferred

theorem bankChoice_exhausted (h : (s.boot.record.bank p).state = .trial) (hmany : 3 ≤ (s.boot.record.bank p).trials) :
    s.bankChoice =
      { s with boot := { s.boot with
          state := .verifying, stage := .trialsWait p, changes := s.boot.changes ++ [{ change := .trialsOut p, live := true }] } } := by
  subst hpreferred
  exact if_pos ⟨h, hmany⟩

theorem bankChoice_firstTry (h : ¬ ((s.boot.record.bank p).state = .trial ∧ 3 ≤ (s.boot.record.bank p).trials)) :
    s.bankChoice = ({ s with boot := { s.boot with state := .verifying } } : State).firstTry := by
  subst hpreferred
  exact if_neg h

end BankChoice

/-- With nothing assumed, bank choice goes by the record. -/
theorem bankState_of_record {b : Boot} (h : b.assumed = none) (k : Bank) : b.bankState k = (b.record.bank k).state := by
  unfold Boot.bankState
  rw [h]
  rfl

theorem firstTry_other {s : State} {p q : Bank} (hpreferred : s.boot.preferred = p) (hpq : p ≠ q)
    (hp : s.boot.bankState p = .unknown ∨ s.boot.bankState p = .rejected) (hq : s.boot.bankState q = .admitted) :
    s.firstTry = s.startCheck q false := by
  have ho : p.other = q := (eq_other hpq).symm
  unfold State.firstTry
  obtain h | h := hp <;> simp only [hpreferred, ho, h, hq]

theorem firstTry_factory {s : State} {p q : Bank} (hpreferred : s.boot.preferred = p) (hpq : p ≠ q)
    (hp : s.boot.bankState p = .unknown) (hq : s.boot.bankState q = .unknown) : s.firstTry = s.startCheck .b0 true := by
  have ho : p.other = q := (eq_other hpq).symm
  unfold State.firstTry
  simp only [hpreferred, ho, hp, hq]

/-- Neither bank can be tried: the preferred one is UNKNOWN or REJECTED, and the other not ADMITTED. -/
theorem firstTry_none {s : State} {p q : Bank} (hpreferred : s.boot.preferred = p) (hpq : p ≠ q)
    (hp : s.boot.bankState p = .unknown ∨ s.boot.bankState p = .rejected) (hq : s.boot.bankState q ≠ .admitted)
    (hboth : ¬ (s.boot.bankState p = .unknown ∧ s.boot.bankState q = .unknown)) : s.firstTry = s.enterFailed := by
  have ho : p.other = q := (eq_other hpq).symm
  unfold State.firstTry
  obtain h | h := hp
  · cases hstate : s.boot.bankState q with
    | admitted => exact absurd hstate hq
    | unknown => exact absurd ⟨h, hstate⟩ hboth
    | _ => simp only [hpreferred, ho, h, hstate]
  · cases hstate : s.boot.bankState q with
    | admitted => exact absurd hstate hq
    | _ => simp only [hpreferred, ho, h, hstate]

/-- Settles O49: WAITING, or the first try of bank choice by both banks' states. -/
theorem bootPhaseBeginsWithBankChoice : Obligations.BootPhaseBeginsWithBankChoice := by
  intro s clear hstage hconfirm htaken hclear
  rw [execBootPhaseBegin_of hstage hconfirm htaken hclear]
  refine ⟨fun hwaits => by rw [if_pos hwaits], fun hlife hroots p q first hp hpq => ?_⟩
  rw [if_neg (not_or.2 ⟨hlife, hroots⟩)]
  have hrecord : clear.record = s.boot.record := by rw [hclear]
  have hchanges : clear.changes = s.boot.changes := by rw [hclear]
  have htried : clear.tried0 = false ∧ clear.tried1 = false := by rw [hclear]; exact ⟨rfl, rfl⟩
  have hassumed : clear.assumed = none := by rw [hclear]
  obtain ⟨v, hv⟩ : ∃ v : State, v = { s with boot := { clear with state := .verifying } } := ⟨_, rfl⟩
  have hstate (k : Bank) : v.boot.bankState k = (s.boot.record.bank k).state := by
    rw [bankState_of_record (by rw [hv]; exact hassumed), hv, ← hrecord]
  have hpreferred : v.boot.preferred = p := by
    unfold Boot.preferred
    rw [hv, hp, ← hrecord]
    dsimp only
    rw [hassumed]
  have hp' : p = ({ s with boot := clear } : State).boot.record.preferred := by rw [hp, ← hrecord]
  have hfirst (h : ¬ ((s.boot.record.bank p).state = .trial ∧ 3 ≤ (s.boot.record.bank p).trials)) :
      ({ s with boot := clear } : State).bankChoice = v.firstTry := by
    rw [bankChoice_firstTry hp' (by rw [show ({ s with boot := clear } : State).boot.record = s.boot.record from hrecord]; exact h), hv]
  have hchecks (b : Bank) (factory : Bool) : v.startCheck b factory =
      { s with
        boot := { clear with state := .verifying, stage := .checking b factory, tried0 := b == .b0, tried1 := b == .b1 },
        checker := s.checker.begin .boot b } := by
    obtain ⟨h0, h1⟩ := htried
    rw [State.startCheck_eq, hv]
    cases b with
    | b0 => simp [h1]
    | b1 => simp [h0]
  refine ⟨fun b factory _ hcase => ?_, fun htrial hfew => ?_, fun htrial hmany => ?_, fun hno hother hboth => ?_⟩
  · rw [← hchecks b factory]
    obtain ⟨hpu, hqu, rfl, rfl⟩ | ⟨hpa, rfl, rfl⟩ | ⟨hpn, hqa, rfl, rfl⟩ := hcase
    · rw [hfirst (by simp [hpu]), firstTry_factory hpreferred hpq ((hstate p).trans hpu) ((hstate q).trans hqu)]
    · rw [hfirst (by simp [hpa]), firstTry_admitted hpreferred ((hstate b).trans hpa)]
    · rw [hfirst (by obtain h | h := hpn <;> simp [h]),
        firstTry_other hpreferred hpq (by rw [hstate]; exact hpn) ((hstate b).trans hqa)]
  · have htrials : (v.boot.record.bank p).trials = (s.boot.record.bank p).trials := by rw [hv, ← hrecord]
    rw [hfirst (by simp; omega), firstTry_trial hpreferred ((hstate p).trans htrial), htrials, if_pos hfew, hv, ← hchanges]
    rfl
  · rw [bankChoice_exhausted hp' (by rw [show ({ s with boot := clear } : State).boot.record = s.boot.record from hrecord]; exact htrial)
      (by rw [show ({ s with boot := clear } : State).boot.record = s.boot.record from hrecord]; exact hmany), ← hchanges]
  · rw [hfirst (by obtain h | h := hno <;> simp [h]), firstTry_none hpreferred hpq (by rw [hstate]; exact hno)
      (by rw [hstate]; exact hother) (by rw [hstate, hstate]; exact hboth), hv]
    rfl

end Sys2Proof.Machine

/-! The release, the resets and what a cut leaves of the arrays (O50, O51). -/
namespace Sys2Proof.Machine

/-! ### The release (R136, R167, R168) -/

@[simp] theorem raise_work (c : Channel) (ch : Chan) (e : Event) : (c.raise ch e).work = c.work := by
  unfold Channel.raise
  split
  · rfl
  · cases eventIndex ch e with
    | none => rfl
    | some i => rcases i with _ | _ | _ | i <;> rfl

/-- An OWNER RESET in progress on channel S. -/
def State.resetting (s : State) : Prop :=
  s.chS.work = .resetEpoch ∨ ∃ slot done left out, s.chS.work = .resetWalk slot done left out

theorem ownerResetRuns_iff (s : State) : s.ownerResetRuns = true ↔ s.resetting := by
  have hwork : s.work .S = s.chS.work := rfl
  unfold State.ownerResetRuns State.resetting
  rw [hwork]
  cases s.chS.work <;> simp

theorem releaseWaits_false {s : State} {m : BootMode}
    (h : m = .normal → s.chS.work ≠ .resetEpoch ∧ ∀ slot done left out, s.chS.work ≠ .resetWalk slot done left out) :
    s.releaseWaits m = false := by
  unfold State.releaseWaits
  cases hm : m with
  | normal =>
    obtain ⟨hepoch, hwalk⟩ := h hm
    have hno : s.ownerResetRuns = false := by
      rw [Bool.eq_false_iff, Ne, ownerResetRuns_iff]
      rintro (h | ⟨slot, done, left, out, h⟩)
      · exact hepoch h
      · exact hwalk _ _ _ _ h
    rw [hno]
    rfl
  | _ => rfl

theorem releaseWaits_true {s : State} (h : s.resetting) : s.releaseWaits .normal = true := by
  unfold State.releaseWaits
  rw [(ownerResetRuns_iff s).2 h]
  rfl

theorem bootExtendRuns_iff (s : State) :
    s.bootExtendRuns = true ↔ ∃ r lane v d l src, s.engine.running = some r ∧ r.job = .extend lane v d l src ∧ lane < 4 := by
  unfold State.bootExtendRuns
  cases s.engine.running with
  | none => simp
  | some r =>
    obtain ⟨who, job, gone⟩ := r
    cases job <;> simp

theorem bootExtendRuns_false {s : State}
    (h : ∀ r lane v d l src, s.engine.running = some r → r.job = .extend lane v d l src → 4 ≤ lane) : s.bootExtendRuns = false := by
  rw [Bool.eq_false_iff, Ne, bootExtendRuns_iff]
  rintro ⟨r, lane, v, d, l, src, hrun, hjob, hlane⟩
  have := h r lane v d l src hrun hjob
  omega

theorem beforeOpening_true {s : State} (hpower : s.power = .running) (hclosed : s.chA.state = .closed) :
    s.beforeOpening = true := by
  simp [State.beforeOpening, hpower, hclosed]

theorem recoveryReply_of (s : State) :
    (s.chS.work ≠ .recoveryRelease → s.recoveryReply = s) ∧
    (s.chS.work = .recoveryRelease → s.recoveryReply = s.reply .S .ok [s.boot.state.code, s.boot.mode.code]) := by
  have hwork : s.work .S = s.chS.work := rfl
  unfold State.recoveryReply
  rw [hwork]
  refine ⟨fun h => ?_, fun h => ?_⟩
  · split
    · exact absurd ‹_› h
    · rfl
  · rw [h]

/-- The end of a release: the opened part, and RELEASE RECOVERY answered where it waits. -/
theorem finishRelease_of {s u : State} {m : BootMode} {b : Option Bank}
    (hu : u = ({ s with
      hold := false, meas := { s.meas with bootOpen := false },
      chA := { Channel.reset with state := .idle, grants := BitVec.ofNat 6 s.settings.grantsA },
      boot := { s.boot with stage := .released, state := .released, mode := m, booted := b } } : State).raise .S .bootDone) :
    (s.chS.work ≠ .recoveryRelease → s.finishRelease m b = u) ∧
    (s.chS.work = .recoveryRelease → s.finishRelease m b = u.reply .S .ok [3#8, m.code]) := by
  have hfinish : s.finishRelease m b = u.recoveryReply := by rw [hu]; rfl
  have hwork : u.chS.work = s.chS.work := by
    rw [hu]
    exact raise_work _ _ _
  have hboot : u.boot = { s.boot with stage := .released, state := .released, mode := m, booted := b } := by
    rw [hu]
    rfl
  obtain ⟨hnone, hanswers⟩ := recoveryReply_of u
  rw [hfinish, ← hwork]
  refine ⟨hnone, fun h => ?_⟩
  rw [hanswers h, hboot]
  rfl

section Release
variable {s : State} {m : BootMode} {b : Option Bank} (hpower : s.power = .running) (hclosed : s.chA.state = .closed)
  (hwaits : s.releaseWaits m = false)
include hpower hclosed hwaits

theorem execRelease_of_ready (hstage : s.boot.stage = .releaseReady m b) :
    exec .release s =
      if s.bootExtendRuns then
        .next { s with checker := { s.checker with fown := false }, boot := { s.boot with stage := .releaseClosing m b } }
      else .next (({ s with checker := { s.checker with fown := false } } : State).finishRelease m b).settle := by
  show execRelease s = _
  unfold execRelease
  rw [hstage]
  exact if_neg (by simp [beforeOpening_true hpower hclosed, hwaits])

theorem execBootLanesClose_of_closing (hstage : s.boot.stage = .releaseClosing m b) (hends : s.bootExtendRuns = false) :
    exec .bootLanesClose s = .next (s.finishRelease m b).settle := by
  show execBootLanesClose s = _
  unfold execBootLanesClose
  rw [hstage]
  exact if_neg (by simp [beforeOpening_true hpower hclosed, hwaits, hends])

end Release

/-- Settles O50: the release and its second part, the wait for the boot lanes' extension, and the wait for an OWNER RESET. -/
theorem releaseInItsOrder : Obligations.ReleaseInItsOrder := by
  refine ⟨fun s u m b hreset hpower hclosed hu => ⟨fun hlanes => ⟨fun hstage => ?_, fun hstage hfown => ?_⟩,
    fun r lane v d l src hrun hjob hlane hstage => ?_⟩, fun s b hresetting => ⟨fun hstage => ?_, fun hstage => ?_⟩⟩
  · rw [execRelease_of_ready hpower hclosed (releaseWaits_false hreset) hstage, if_neg (by simp [bootExtendRuns_false hlanes])]
    obtain ⟨hplain, hanswered⟩ :=
      finishRelease_of (s := { s with checker := { s.checker with fown := false } }) (m := m) (b := b) hu
    exact ⟨fun h => by rw [hplain h], fun h => by rw [hanswered h]⟩
  · have hsame : ({ s with checker := { s.checker with fown := false } } : State) = s := by rw [← hfown]
    rw [execBootLanesClose_of_closing hpower hclosed (releaseWaits_false hreset) hstage (bootExtendRuns_false hlanes), ← hsame]
    obtain ⟨hplain, hanswered⟩ :=
      finishRelease_of (s := { s with checker := { s.checker with fown := false } }) (m := m) (b := b) hu
    exact ⟨fun h => by rw [hplain h], fun h => by rw [hanswered h]⟩
  · rw [execRelease_of_ready hpower hclosed (releaseWaits_false hreset) hstage,
      if_pos ((bootExtendRuns_iff s).2 ⟨r, lane, v, d, l, src, hrun, hjob, hlane⟩)]
  · show execRelease s = _
    unfold execRelease
    rw [hstage]
    exact if_pos (by simp [releaseWaits_true hresetting])
  · show execBootLanesClose s = _
    unfold execBootLanesClose
    rw [hstage]
    exact if_pos (by simp [releaseWaits_true hresetting])

/-! ### What a cut leaves of the one-time cells (R35) -/

section CellsCut
variable {o : Ota} {r : OtaRun} (hrun : o.current = some r) (cut : Cut)
include hrun

theorem afterCut_retire {b : Nat} (h : r.op = .retire b) :
    o.afterCut cut = if cut.cells.getLsbD 0 then o.cells
      else { o.cells with retired := o.cells.retired &&& ~~~ (1#40 <<< b) } := by
  unfold Ota.afterCut
  simp only [hrun, h, clearBit]
  cases cut.cells.getLsbD 0 <;> rfl

theorem afterCut_advance {k : Counter} {target : Nat} {filer : AdvanceFor} (h : r.op = .advance k target filer) :
    o.afterCut cut = if cut.cells.getLsbD 0 then o.cells else o.cells.clearCounter k r.pos true := by
  unfold Ota.afterCut
  simp only [hrun, h]
  cases cut.cells.getLsbD 0
  · rfl
  · cases k <;> rfl

theorem afterCut_seal (h : r.op = .seal) :
    o.afterCut cut = if cut.cells.getLsbD 0 then o.cells else { o.cells with locks := o.cells.locks ||| (1#5 <<< (2 - r.pos)) } := by
  unfold Ota.afterCut
  simp only [hrun, h]
  cases cut.cells.getLsbD 0 <;> rfl

/-- An operation that programs bytes: the byte's cells, as the cut leaves them. -/
theorem afterCut_byte {v : Byte} (h : r.op.byteAt r.pos = some v) : o.afterCut cut = o.cells.prog r.op r.pos v cut.cells := by
  unfold Ota.afterCut
  simp only [hrun]
  cases hop : r.op with
  | identity copy =>
    rw [hop] at h
    simp only [h]
  | keys seed =>
    rw [hop] at h
    simp only [h]
  | root e d =>
    rw [hop] at h
    simp only [h]
  | _ =>
    rw [hop] at h
    cases h

theorem afterCut_nothing (h : r.op.byteAt r.pos = none) (hretire : ∀ b, r.op ≠ .retire b)
    (hadvance : ∀ k target filer, r.op ≠ .advance k target filer) (hseal : r.op ≠ .seal) : o.afterCut cut = o.cells := by
  unfold Ota.afterCut
  simp only [hrun]
  cases hop : r.op with
  | advance k target filer => exact absurd hop (hadvance k target filer)
  | retire b => exact absurd hop (hretire b)
  | identity copy | keys seed | root e d =>
    rw [hop] at h
    simp only [h]
  | _ => exact absurd hop hseal

end CellsCut

/-- The byte of the device keys that stands at a position. -/
theorem keys_byteAt {seed : Bytes} (hlen : seed.length = 32) :
    (∀ pos, pos < 32 → (OtaOp.keys seed).byteAt pos = some (byteAt seed pos)) ∧
    (∀ i, i < 32 → (OtaOp.keys seed).byteAt (32 + i) = some (byteAt seed i ^^^ 0xFF#8)) ∧
    (OtaOp.keys seed).byteAt 64 = some 0#8 := by
  have hcompl : (complBytes seed).length = 32 := by simp [complBytes, hlen]
  refine ⟨fun pos h => ?_, fun i h => ?_, ?_⟩
  · refine (if_pos (by omega)).trans ?_
    rw [byteAt_append_left (by omega)]
  · refine (if_pos (by omega)).trans ?_
    rw [byteAt_append_right (by omega), hlen, Nat.add_sub_cancel_left]
    simp [complBytes, byteAt, hlen, h]
  · show (if 64 < 65 then some (byteAt (seed ++ complBytes seed) 64) else none) = _
    rw [if_pos (by omega), byteAt_append_right (by omega), hlen]
    simp [byteAt, hcompl]

theorem prog_root {c : Cells} {e pos : Nat} {d : Bytes} {v stuck : Byte} {root : RootCells} (h : c.roots[e]? = some root) :
    c.prog (.root e d) pos v stuck = { c with roots := c.roots.set e (root.prog pos v stuck) } := by
  show ({ c with roots := c.roots.modify e fun r => r.prog pos v stuck } : Cells) = _
  rw [modify_of_get _ h]

/-! ### What a cut leaves of the store array (R53, R78) -/

theorem cutPage_full {bytes mask : Bytes} (hbytes : bytes.length = 256) (hmask : mask.length = 256) :
    cutPage bytes mask = List.zipWith (· ||| ·) bytes mask := by
  unfold cutPage
  rw [fit_self _ hbytes, fit_self _ hmask]

/-- Settles O51: the resets, and what a cut leaves of each operation on either array. -/
theorem resetsKeepTheArraysAlone : Obligations.ResetsKeepTheArraysAlone := by
  refine ⟨fun s cut => ⟨fun c power guard hcase => ?reset, fun hpower => if_pos hpower⟩,
    fun o cut c hc => ⟨fun hidle => ?_, fun r hrun => ⟨fun b h => ?_, fun k target filer h => ?_, fun h => ?_,
      fun h hretire hadvance hseal => ?_, fun copy h hpos => ?_, fun seed h hlen => ⟨fun hpos => ?_, fun i hpos hi => ?_, fun hpos => ?_⟩,
      fun e d root h hroot => ⟨fun hpos => ?_, fun hpos => ?_⟩⟩⟩,
    fun st cut => ⟨fun hidle => ?_, fun p bytes hop hbytes hmask => ?_, fun p hop hp => ?_, fun b m p hop hmask hm hp => ?erase⟩⟩
  case reset =>
    obtain ⟨rfl, rfl, rfl⟩ | ⟨hon, rfl, rfl, rfl⟩ | ⟨hon, rfl, rfl, rfl⟩ := hcase
    · rfl
    · exact if_neg hon
    · exact if_neg hon
  · subst hc
    unfold Ota.afterCut
    rw [hidle]
  · subst hc
    exact afterCut_retire hrun cut h
  · subst hc
    rw [afterCut_advance hrun cut h]
    cases k <;> rfl
  · subst hc
    exact afterCut_seal hrun cut h
  · subst hc
    exact afterCut_nothing hrun cut h hretire hadvance hseal
  · subst hc
    have hbyte : r.op.byteAt r.pos = some (byteAt copy (r.pos % 64)) := by rw [h]; exact identity_byteAt hpos
    rw [afterCut_byte hrun cut hbyte, h]
    rfl
  · subst hc
    have hbyte : r.op.byteAt r.pos = some (byteAt seed r.pos) := by rw [h]; exact (keys_byteAt hlen).1 _ hpos
    rw [afterCut_byte hrun cut hbyte, h]
    exact if_pos hpos
  · subst hc
    have hbyte : r.op.byteAt r.pos = some (byteAt seed i ^^^ 0xFF#8) := by rw [h, hpos]; exact (keys_byteAt hlen).2.1 i hi
    rw [afterCut_byte hrun cut hbyte, h, hpos]
    refine (if_neg (by omega)).trans ((if_pos (by omega)).trans ?_)
    rw [Nat.add_sub_cancel_left]
    rfl
  · subst hc
    have hbyte : r.op.byteAt r.pos = some 0#8 := by rw [h, hpos]; exact (keys_byteAt hlen).2.2
    rw [afterCut_byte hrun cut hbyte, h, hpos]
    simp [Cells.prog, progByte]
  · subst hc
    have hbyte : r.op.byteAt r.pos = some (byteAt d r.pos) := by rw [h]; exact if_pos hpos
    rw [afterCut_byte hrun cut hbyte, h]
    rw [prog_root hroot, RootCells.prog, if_pos hpos]
    rfl
  · subst hc
    have hbyte : r.op.byteAt r.pos = some 0#8 := by rw [h, hpos]; rfl
    rw [afterCut_byte hrun cut hbyte, h, hpos]
    rw [prog_root hroot, RootCells.prog, if_neg (by omega)]
    simp [progByte]
  · unfold Store.afterCut
    rw [hidle]
  · rw [← cutPage_full hbytes hmask]
    unfold Store.afterCut
    obtain hop | ⟨src, hop⟩ := hop
    · rw [hop]
    · rw [hop]
  · unfold Store.afterCut
    obtain hop | hop := hop
    · rw [hop]
      exact if_pos hp
    · rw [hop]
      exact if_pos hp
  case erase =>
    have herase : st.afterCut cut = cutErase st.mem b cut.pages cut.page := by
      unfold Store.afterCut
      obtain hop | hop := hop <;> rw [hop]
    have hcut : cutErase st.mem b cut.pages cut.page =
        if cut.pages < 16 then Mem.setPage m p (List.zipWith (· ||| ·) (Mem.readPage m p) cut.page) else m := by
      subst hm hp
      unfold cutErase
      rw [fit_self _ hmask]
    rw [herase, hcut]
    exact ⟨fun h => if_neg (by omega), fun h => if_pos h⟩

end Sys2Proof.Machine
/-! The part after power-on (O53). -/
namespace Sys2Proof.Machine

/-- Every context entry after power-on is FREE with epoch 0. -/
theorem reset_entry {e : CtxEntry} (h : e ∈ State.reset.ctx.entries) : e.epoch = 0#8 ∧ e.ctx = none := by
  have he : e = { epoch := 0#8, ctx := none } := List.eq_of_mem_replicate h
  subst he
  exact ⟨rfl, rfl⟩

/-- With no entry LOADED, no channel A grant set and no channel S grant set the keys are valid. -/
theorem reset_keysSound : State.reset.keysSound :=
  ⟨fun e c he hc => absurd ((reset_entry he).2.symm.trans hc) (by simp), fun _ => rfl, fun _ => ⟨rfl, rfl⟩⟩

/-- Eight zero lanes are what the empty log replays to, and no EXTEND job runs. -/
theorem reset_lanesReplay : State.reset.lanesReplay :=
  ⟨rfl, by decide, fun _ _ _ _ _ _ h => absurd h (by simp [State.reset, Engine.reset])⟩

/-- Settles O53: each field is the one of its block's reset value; the invariants by the lemmas above. -/
theorem resetStateIsAsTheSpecSays : Obligations.ResetStateIsAsTheSpecSays := by
  unfold Obligations.ResetStateIsAsTheSpecSays
  refine ⟨rfl, rfl, rfl, rfl, rfl, by decide, by decide, rfl, rfl, rfl, rfl, rfl, rfl, rfl, rfl, rfl, rfl, rfl, rfl, rfl, rfl, rfl,
    rfl, rfl, fun e he => reset_entry he, rfl, by decide, by decide, by decide, reset_lanesReplay, reset_keysSound⟩

end Sys2Proof.Machine
/-! What the start-up scan finds, said of the array (R60, R61, R72). -/
namespace Sys2Proof.Machine

/-! ### The pages it reads and the good ones -/

/-- The blocks in use by the retired map. -/
def scanAlive (retired : BitVec 40) : List Nat := (List.range 40).filter fun b => retired.getLsbD b

/-- The good pages of the scan. -/
def scanGoods (mem : List Host.Cell) (retired : BitVec 40) : List PlacedPage :=
  goodPages mem (usedPages mem (scanAlive retired))

variable {mem : List Host.Cell} {retired : BitVec 40}

theorem mem_scanAlive {b : Nat} : b ∈ scanAlive retired ↔ b < 40 ∧ retired.getLsbD b = true := by
  simp [scanAlive]

theorem scanAlive_rising : (scanAlive retired).Pairwise (· < ·) :=
  List.Pairwise.filter _ List.pairwise_lt_range

theorem mem_pagesOf {b p : Nat} : p ∈ pagesOf b ↔ p / 16 = b := by
  simp only [pagesOf, List.mem_map, List.mem_range]
  constructor
  · rintro ⟨i, hi, rfl⟩
    omega
  · intro h
    exact ⟨p % 16, by omega, by omega⟩

theorem mem_usedPages {p : Nat} : p ∈ usedPages mem (scanAlive retired) ↔
    p < 640 ∧ retired.getLsbD (p / 16) = true ∧ Mem.pageErased mem p = false := by
  simp only [usedPages, List.mem_filter, List.mem_flatMap, mem_scanAlive, mem_pagesOf, Bool.not_eq_true']
  constructor
  · rintro ⟨⟨b, ⟨hb, halive⟩, rfl⟩, hp⟩
    exact ⟨by omega, halive, hp⟩
  · rintro ⟨hp, halive, he⟩
    exact ⟨⟨p / 16, ⟨by omega, halive⟩, rfl⟩, he⟩

theorem mem_scanGoods {x : PlacedPage} : x ∈ scanGoods mem retired ↔ GoodAt mem retired x.page x.good := by
  simp only [scanGoods, goodPages, List.mem_filterMap, mem_usedPages, Option.map_eq_some_iff]
  constructor
  · rintro ⟨p, ⟨hp, halive, hused⟩, g, hg, rfl⟩
    exact ⟨hp, halive, hused, hg⟩
  · rintro ⟨hp, halive, hused, hg⟩
    exact ⟨x.page, ⟨hp, halive, hused⟩, x.good, hg, rfl⟩

/-- A page holds one good record at most. -/
theorem GoodAt.unique {p : Nat} {g h : GoodPage} (hg : GoodAt mem retired p g) (hh : GoodAt mem retired p h) : g = h := by
  obtain ⟨-, -, -, hg⟩ := hg
  obtain ⟨-, -, -, hh⟩ := hh
  exact Option.some.inj (hg.symm.trans hh)

theorem scanGoods_distinct {a b : PlacedPage} (ha : a ∈ scanGoods mem retired) (hb : b ∈ scanGoods mem retired)
    (h : a.page = b.page) : a = b := by
  obtain ⟨p, g⟩ := a
  obtain ⟨q, g'⟩ := b
  dsimp only at h
  subst h
  exact congrArg (PlacedPage.mk p) ((mem_scanGoods.1 ha).unique (mem_scanGoods.1 hb))

/-- The slot number of a good page is a byte. -/
theorem GoodAt.slot_lt {p : Nat} {g : GoodPage} (h : GoodAt mem retired p g) : g.slot < 256 := by
  obtain ⟨-, -, -, hparse⟩ := h
  unfold parsePage at hparse
  dsimp only at hparse
  split at hparse
  · cases hparse
  · split at hparse
    · cases hparse
      exact (byteAt (Mem.readPage mem p) 0).isLt
    · cases hparse

theorem beats_iff_takenOver {a b : PlacedPage} : a.beats b = true ↔ TakenOver a.page a.good b.page b.good :=
  PlacedPage.beats_iff a b

/-! ### The LIVE page of a slot and its entry -/

theorem bestPage_iff_live {n p : Nat} {g : GoodPage} :
    bestPage (scanGoods mem retired) n = some { page := p, good := g } ↔ LiveAt mem retired n p g := by
  constructor
  · intro h
    obtain ⟨hin, hslot, hbest⟩ := bestPage_some (fun _ _ => scanGoods_distinct) h
    refine ⟨mem_scanGoods.1 hin, hslot, fun q h' hq hs hne => ?_⟩
    rcases hbest { page := q, good := h' } (mem_scanGoods.2 hq) hs with e | e
    · cases e
      exact absurd rfl hne
    · exact beats_iff_takenOver.1 e
  · rintro ⟨hgood, rfl, hbest⟩
    exact bestPage_eq (p := { page := p, good := g }) (fun _ _ => scanGoods_distinct) (mem_scanGoods.2 hgood)
      fun q hq hs hne => beats_iff_takenOver.2 (hbest q.page q.good (mem_scanGoods.1 hq) hs hne)

theorem bestPage_none_of_never {n : Nat} (h : ∀ p g, GoodAt mem retired p g → g.slot ≠ n) :
    bestPage (scanGoods mem retired) n = none := by
  cases hb : bestPage (scanGoods mem retired) n with
  | none => rfl
  | some x =>
    obtain ⟨hgood, hslot, -⟩ := bestPage_iff_live.1 hb
    exact absurd hslot (h _ _ hgood)

/-- The entry that the scan makes for a slot. -/
def scanEntry (mem : List Host.Cell) (retired : BitVec 40) (n : Nat) : Option SlotEntry :=
  (bestPage (scanGoods mem retired) n).map fun p => { slot := n, page := p.page, gen := p.good.gen }

theorem scanEntry_of_live {n p : Nat} {g : GoodPage} (h : LiveAt mem retired n p g) :
    scanEntry mem retired n = some { slot := n, page := p, gen := g.gen } := by
  rw [scanEntry, bestPage_iff_live.2 h]
  rfl

theorem live_of_scanEntry {n : Nat} {e : SlotEntry} (h : scanEntry mem retired n = some e) :
    ∃ g, LiveAt mem retired n e.page g ∧ e = { slot := n, page := e.page, gen := g.gen } := by
  obtain ⟨x, hx, rfl⟩ := Option.map_eq_some_iff.1 h
  exact ⟨x.good, bestPage_iff_live.1 hx, rfl⟩

theorem scanEntry_beyond {n : Nat} (h : 256 ≤ n) : scanEntry mem retired n = none := by
  rw [scanEntry, bestPage_none_of_never fun p g hg hs => by have := hg.slot_lt; omega]
  rfl

theorem find_scanMap (n : Nat) :
    (scanMap (scanGoods mem retired)).find? (fun e => e.slot == n) = scanEntry mem retired n := by
  rw [scanMap_entry]
  split
  · rfl
  · rw [scanEntry_beyond (by omega)]

theorem mem_scanMap {e : SlotEntry} : e ∈ scanMap (scanGoods mem retired) ↔ ∃ n, scanEntry mem retired n = some e := by
  simp only [scanMap, List.mem_filterMap, List.mem_range]
  constructor
  · rintro ⟨n, -, h⟩
    exact ⟨n, h⟩
  · rintro ⟨n, h⟩
    refine ⟨n, ?_, h⟩
    refine Classical.byContradiction fun hn => ?_
    rw [scanEntry_beyond (by omega)] at h
    cases h

/-! ### Duplicates and redundant blocks (R61 step 4) -/

theorem mem_outside {b : Nat} {gen : Word} {x : PlacedPage} :
    x ∈ (scanGoods mem retired).filter (fun p => blockOf p.page != b && p.good.gen == gen) ↔
      GoodAt mem retired x.page x.good ∧ x.good.gen = gen ∧ x.page / 16 ≠ b := by
  simp [mem_scanGoods, blockOf, and_comm]

theorem outside_distinct {b : Nat} {gen : Word} (x y : PlacedPage)
    (hx : x ∈ (scanGoods mem retired).filter (fun p => blockOf p.page != b && p.good.gen == gen))
    (hy : y ∈ (scanGoods mem retired).filter (fun p => blockOf p.page != b && p.good.gen == gen))
    (h : x.page = y.page) : x = y :=
  scanGoods_distinct (List.mem_filter.1 hx).1 (List.mem_filter.1 hy).1 h

/-- A duplicate that is taken over each other one is the one chosen. -/
theorem duplicateOf_eq {b q : Nat} {e : SlotEntry} {h : GoodPage} (hdup : Duplicate mem retired b e.slot e.gen q h)
    (hbest : ∀ q' h', Duplicate mem retired b e.slot e.gen q' h' → q' ≠ q → TakenOver q h q' h') :
    duplicateOf (scanGoods mem retired) b e = some { page := q, good := h } := by
  obtain ⟨hgood, hslot, hgen, hout⟩ := hdup
  unfold duplicateOf
  rw [← hslot]
  refine bestPage_eq (p := { page := q, good := h }) outside_distinct (mem_outside.2 ⟨hgood, hgen, hout⟩) ?_
  intro x hx hs hne
  obtain ⟨xgood, xgen, xout⟩ := mem_outside.1 hx
  exact beats_iff_takenOver.2 (hbest x.page x.good ⟨xgood, hs.trans hslot, xgen, xout⟩ hne)

theorem duplicateOf_isSome {b : Nat} {e : SlotEntry} : (duplicateOf (scanGoods mem retired) b e).isSome = true ↔
    ∃ q h, Duplicate mem retired b e.slot e.gen q h := by
  cases hd : duplicateOf (scanGoods mem retired) b e with
  | none =>
    refine iff_of_false (by simp) ?_
    rintro ⟨q, h, hgood, hslot, hgen, hout⟩
    exact bestPage_none outside_distinct hd { page := q, good := h } (mem_outside.2 ⟨hgood, hgen, hout⟩) hslot
  | some x =>
    obtain ⟨hin, hslot, -⟩ := bestPage_some outside_distinct hd
    obtain ⟨hgood, hgen, hout⟩ := mem_outside.1 hin
    exact iff_of_true rfl ⟨x.page, x.good, hgood, hslot, hgen, hout⟩

/-- The test for a redundant block over the scan's map. -/
theorem redundant_iff {st : Store} {b : Nat} (hmap : st.map = scanMap (scanGoods mem retired)) (hb : b ∈ scanAlive retired) :
    st.redundant (scanGoods mem retired) b = true ↔ RedundantAt mem retired b := by
  obtain ⟨hlt, halive⟩ := mem_scanAlive.1 hb
  unfold Store.redundant RedundantAt
  simp only [hmap, List.all_eq_true, mem_scanMap, Bool.or_eq_true, bne_iff_ne, duplicateOf_isSome, blockOf, hlt, halive,
    true_and]
  constructor
  · intro hall n p g hlive hpb
    rcases hall _ ⟨n, scanEntry_of_live hlive⟩ with h | h
    · exact absurd hpb h
    · exact h
  · rintro hall e ⟨n, he⟩
    obtain ⟨g, hlive, hform⟩ := live_of_scanEntry he
    by_cases hpb : e.page / 16 = b
    · right
      rw [hform]
      exact hall n e.page g hlive hpb
    · exact .inl hpb

/-! ### FREE blocks, candidates and the OPEN block (R61 steps 2, 3, 5) -/

theorem isUsed_scan {st : Store} {p : Nat} (hused : st.used = usedPages mem (scanAlive retired)) (hp : p < 640)
    (halive : retired.getLsbD (p / 16) = true) : st.isUsed p = !Mem.pageErased mem p := by
  rw [Store.isUsed, hused, Bool.eq_iff_iff, List.contains_iff_mem, mem_usedPages]
  simp [hp, halive]

/-- The sixteen pages of a block in use, each used unless it is ERASED. -/
theorem isUsed_page {st : Store} {b k : Nat} (hused : st.used = usedPages mem (scanAlive retired)) (hb : b ∈ scanAlive retired)
    (hk : k < 16) : st.isUsed (16 * b + k) = !Mem.pageErased mem (16 * b + k) := by
  obtain ⟨hlt, halive⟩ := mem_scanAlive.1 hb
  exact isUsed_scan hused (by omega) (by rwa [show (16 * b + k) / 16 = b by omega])

theorem any_pagesOf {f : Nat → Bool} {b : Nat} : (pagesOf b).any f = true ↔ ∃ k, k < 16 ∧ f (16 * b + k) = true := by
  simp [pagesOf]

theorem all_pagesOf {f : Nat → Bool} {b : Nat} : (pagesOf b).all f = true ↔ ∀ k, k < 16 → f (16 * b + k) = true := by
  simp [pagesOf]

theorem unused_iff_free {st : Store} {b : Nat} (hused : st.used = usedPages mem (scanAlive retired))
    (hb : b ∈ scanAlive retired) : (pagesOf b).any st.isUsed = false ↔ FreeAt mem retired b := by
  obtain ⟨hlt, halive⟩ := mem_scanAlive.1 hb
  rw [← Bool.not_eq_true, any_pagesOf]
  simp only [FreeAt, hlt, halive, true_and]
  constructor
  · intro h k hk
    refine Classical.byContradiction fun he => ?_
    exact h ⟨k, hk, by rw [isUsed_page hused hb hk]; simpa using he⟩
  · rintro h ⟨k, hk, hu⟩
    rw [isUsed_page hused hb hk, h k hk] at hu
    cases hu

theorem candidate_iff {st : Store} {b : Nat} (hused : st.used = usedPages mem (scanAlive retired))
    (hb : b ∈ scanAlive retired) : st.candidate b = true ↔ CandidateAt mem retired b := by
  obtain ⟨hlt, halive⟩ := mem_scanAlive.1 hb
  have hu : ∀ k, k < 16 → st.isUsed (16 * b + k) = !Mem.pageErased mem (16 * b + k) := fun k hk => isUsed_page hused hb hk
  unfold Store.candidate CandidateAt
  simp only [Bool.and_eq_true, any_pagesOf, all_pagesOf, hlt, halive, true_and, and_assoc, Bool.not_eq_true',
    hu 15 (by decide)]
  refine and_congr ?_ (and_congr (by simp) ?_)
  · exact exists_congr fun k => and_congr_right fun hk => by rw [hu k hk]; simp
  · constructor
    · intro h j k hjk hk he
      have := h j (by omega) k hk
      rw [hu j (by omega), hu k hk, he] at this
      simpa [hjk] using this
    · intro h j hj k hk
      rw [hu j hj, hu k hk]
      by_cases hjk : j < k
      · cases he : Mem.pageErased mem (16 * b + j) with
        | false => simp
        | true => simp [h j k hjk hk he]
      · simp [hjk]

theorem topGenAt_unique {b m : Nat} (h : TopGenAt mem retired b m) : m = topGen (scanGoods mem retired) b := by
  obtain ⟨habove, hfrom⟩ := h
  obtain ⟨above, hin⟩ := topGen_spec (scanGoods mem retired) b
  refine Nat.le_antisymm ?_ ?_
  · rcases hfrom with h | ⟨p, g, hg, hp, rfl⟩
    · omega
    · exact above { page := p, good := g } (mem_scanGoods.2 hg) hp
  · rcases hin with h | ⟨x, hx, hxb, he⟩
    · omega
    · rw [← he]
      exact habove x.page x.good (mem_scanGoods.1 hx) hxb

theorem topGenAt_topGen (b : Nat) : TopGenAt mem retired b (topGen (scanGoods mem retired) b) := by
  obtain ⟨above, hin⟩ := topGen_spec (scanGoods mem retired) b
  refine ⟨fun p g hg hp => above { page := p, good := g } (mem_scanGoods.2 hg) hp, ?_⟩
  rcases hin with h | ⟨x, hx, hxb, he⟩
  · exact .inl h
  · exact .inr ⟨x.page, x.good, mem_scanGoods.1 hx, hxb, he⟩

theorem candidates_iff {st : Store} {aside : Option Nat} {b : Nat} (hused : st.used = usedPages mem (scanAlive retired)) :
    b ∈ (scanAlive retired).filter (fun b => st.candidate b && aside != some b) ↔
      CandidateAt mem retired b ∧ aside ≠ some b := by
  rw [List.mem_filter, Bool.and_eq_true, bne_iff_ne]
  constructor
  · rintro ⟨hb, hcand, hne⟩
    exact ⟨(candidate_iff hused hb).1 hcand, hne⟩
  · rintro ⟨hcand, hne⟩
    have hb : b ∈ scanAlive retired := mem_scanAlive.2 ⟨hcand.1, hcand.2.1⟩
    exact ⟨hb, (candidate_iff hused hb).2 hcand, hne⟩

/-- The choice among the candidates is the OPEN block. -/
theorem openOf_iff {st : Store} {aside : Option Nat} {b : Nat} (hused : st.used = usedPages mem (scanAlive retired)) :
    openOf (scanGoods mem retired) ((scanAlive retired).filter fun b => st.candidate b && aside != some b) = some b ↔
      OpenAt mem retired aside b := by
  obtain ⟨hnone, hsome⟩ := openOf_spec (scanGoods mem retired)
    (List.Pairwise.filter (fun b => st.candidate b && aside != some b) (scanAlive_rising (retired := retired)))
  constructor
  · intro h
    obtain ⟨hin, hbest⟩ := hsome b h
    obtain ⟨hcand, hne⟩ := (candidates_iff hused).1 hin
    refine ⟨hcand, hne, fun c m k hc hca hcb hm hk => ?_⟩
    rw [topGenAt_unique hm, topGenAt_unique hk]
    exact hbest c ((candidates_iff hused).2 ⟨hc, hca⟩) hcb
  · rintro ⟨hcand, hne, hbest⟩
    have hin := (candidates_iff hused).2 ⟨hcand, hne⟩
    cases ho : openOf (scanGoods mem retired) ((scanAlive retired).filter fun b => st.candidate b && aside != some b) with
    | none =>
      rw [hnone.1 ho] at hin
      cases hin
    | some y =>
      obtain ⟨hy, hyBest⟩ := hsome y ho
      obtain ⟨hycand, hyne⟩ := (candidates_iff hused).1 hy
      by_cases hby : b = y
      · rw [hby]
      · have h1 := hyBest b hin hby
        have h2 := hbest y _ _ hycand hyne (Ne.symm hby) (topGenAt_topGen b) (topGenAt_topGen y)
        omega

end Sys2Proof.Machine
/-! The store and the lifecycle after the start-up load (O52). -/
namespace Sys2Proof.Machine

variable {mem : List Host.Cell} {retired : BitVec 40}

/-! ### The store that the scan leaves -/

/-- The store once the pages are read. -/
def scanRead (mem : List Host.Cell) (retired : BitVec 40) : Store :=
  { Store.reset mem with used := usedPages mem (scanAlive retired), map := scanMap (scanGoods mem retired) }

/-- The FREE blocks of the scan. -/
def scanFree (mem : List Host.Cell) (retired : BitVec 40) : List Nat :=
  (scanAlive retired).filter fun b => !(pagesOf b).any (scanRead mem retired).isUsed

/-- The OPEN block of the scan. -/
def scanOpen (mem : List Host.Cell) (retired : BitVec 40) : Option Nat :=
  openOf (scanGoods mem retired)
    ((scanAlive retired).filter fun b => (scanRead mem retired).candidate b && (scanStore mem retired).aside != some b)

/-- The store with the states of the blocks before a spare is chosen. -/
def scanJudged (mem : List Host.Cell) (retired : BitVec 40) : Store :=
  { scanRead mem retired with
    blocks := (List.range 40).map (scanBlock retired (scanFree mem retired) (scanOpen mem retired)) }

theorem scanStore_store :
    (scanStore mem retired).store = (scanJudged mem retired).scanSpare (scanStore mem retired).aside := rfl

theorem scanStore_goods : (scanStore mem retired).goods = scanGoods mem retired := rfl

theorem mem_scanFree {b : Nat} : b ∈ scanFree mem retired ↔ FreeAt mem retired b := by
  rw [scanFree, List.mem_filter, Bool.not_eq_true']
  constructor
  · rintro ⟨hb, h⟩
    exact (unused_iff_free rfl hb).1 h
  · intro h
    have hb : b ∈ scanAlive retired := mem_scanAlive.2 ⟨h.1, h.2.1⟩
    exact ⟨hb, (unused_iff_free rfl hb).2 h⟩

theorem scanOpen_iff {b : Nat} : scanOpen mem retired = some b ↔ OpenAt mem retired (scanStore mem retired).aside b :=
  openOf_iff rfl

/-! The block set aside. -/

theorem scanAside_eq : (scanStore mem retired).aside =
    if (scanFree mem retired).isEmpty then
      (scanAlive retired).find? fun b => (scanRead mem retired).redundant (scanGoods mem retired) b
    else none := rfl

theorem scanAside_of_free {b : Nat} (h : FreeAt mem retired b) : (scanStore mem retired).aside = none := by
  rw [scanAside_eq, if_neg]
  rw [List.isEmpty_iff]
  exact List.ne_nil_of_mem (mem_scanFree.2 h)

theorem scanFree_empty (h : ∀ b, ¬ FreeAt mem retired b) : (scanFree mem retired).isEmpty = true :=
  List.isEmpty_iff.2 (List.eq_nil_iff_forall_not_mem.2 fun b hb => h b (mem_scanFree.1 hb))

theorem scanAside_iff (h : ∀ b, ¬ FreeAt mem retired b) (b : Nat) : (scanStore mem retired).aside = some b ↔
    RedundantAt mem retired b ∧ ∀ c, c < b → ¬ RedundantAt mem retired c := by
  rw [scanAside_eq, if_pos (scanFree_empty h), find_rising scanAlive_rising]
  constructor
  · rintro ⟨hb, hred, hlow⟩
    refine ⟨(redundant_iff rfl hb).1 hred, fun c hc hr => ?_⟩
    have hcin : c ∈ scanAlive retired := mem_scanAlive.2 ⟨hr.1, hr.2.1⟩
    exact Bool.false_ne_true ((hlow c hcin hc).symm.trans ((redundant_iff rfl hcin).2 hr))
  · rintro ⟨hred, hlow⟩
    have hb : b ∈ scanAlive retired := mem_scanAlive.2 ⟨hred.1, hred.2.1⟩
    exact ⟨hb, (redundant_iff rfl hb).2 hred, fun c hc hlt => Bool.eq_false_iff.2 fun hr =>
      hlow c hlt ((redundant_iff rfl hc).1 hr)⟩

theorem scanAside_none (h : ∀ b, ¬ FreeAt mem retired b) :
    (scanStore mem retired).aside = none ↔ ∀ b, ¬ RedundantAt mem retired b := by
  rw [scanAside_eq, if_pos (scanFree_empty h), List.find?_eq_none]
  constructor
  · intro hall b hr
    have hb : b ∈ scanAlive retired := mem_scanAlive.2 ⟨hr.1, hr.2.1⟩
    exact hall b hb ((redundant_iff rfl hb).2 hr)
  · intro hall b hb hr
    exact hall b ((redundant_iff rfl hb).1 hr)

/-! The states of the blocks. -/

theorem scanJudged_block {b : Nat} (hb : b < 40) : (scanJudged mem retired).block b =
    scanBlock retired (scanFree mem retired) (scanOpen mem retired) b := by
  simp [Store.block, scanJudged, hb]

theorem scanBlock_retired {free : List Nat} {opened : Option Nat} {b : Nat} (h : retired.getLsbD b = false) :
    scanBlock retired free opened b = .retired := by simp [scanBlock, h]

theorem block_setBlock_other {st : Store} {b c : Nat} {x : BlockState} (h : c ≠ b) :
    (st.setBlock b x).block c = st.block c := by
  simp [Store.block, Store.setBlock, setAt, List.getD_eq_getElem?_getD, List.getElem?_set_ne (Ne.symm h)]

theorem block_setBlock_self {st : Store} {b : Nat} {x : BlockState} (h : b < st.blocks.length) :
    (st.setBlock b x).block b = x := by
  simp [Store.block, Store.setBlock, setAt, List.getD_eq_getElem?_getD, h]

theorem scanBlock_free {opened : Option Nat} {b : Nat} (h : FreeAt mem retired b) :
    scanBlock retired (scanFree mem retired) opened b = .free := by
  have hin : b ∈ scanFree mem retired := mem_scanFree.2 h
  have halive : retired.getLsbD b = true := h.2.1
  simp [scanBlock, halive, hin]

theorem scanBlock_open {b : Nat} (h : OpenAt mem retired (scanStore mem retired).aside b) :
    scanBlock retired (scanFree mem retired) (scanOpen mem retired) b = .openBlock := by
  obtain ⟨⟨-, halive, ⟨k, hk, hused⟩, -⟩, -⟩ := id h
  have hfree : b ∉ scanFree mem retired := fun hin => by
    have := (mem_scanFree.1 hin).2.2 k hk
    rw [hused] at this
    cases this
  simp [scanBlock, halive, hfree, scanOpen_iff.2 h]

theorem scanBlock_filled {b : Nat} (halive : retired.getLsbD b = true) (hfree : ¬ FreeAt mem retired b)
    (hopen : ¬ OpenAt mem retired (scanStore mem retired).aside b) :
    scanBlock retired (scanFree mem retired) (scanOpen mem retired) b = .filled := by
  have hf : b ∉ scanFree mem retired := fun h => hfree (mem_scanFree.1 h)
  have ho : scanOpen mem retired ≠ some b := fun h => hopen (scanOpen_iff.1 h)
  simp [scanBlock, halive, hf, ho]

theorem scanBlock_free_iff {b : Nat} :
    scanBlock retired (scanFree mem retired) (scanOpen mem retired) b = .free ↔ FreeAt mem retired b := by
  refine ⟨fun h => ?_, scanBlock_free⟩
  refine Classical.byContradiction fun hfree => ?_
  cases halive : retired.getLsbD b with
  | false =>
    rw [scanBlock_retired halive] at h
    cases h
  | true =>
    by_cases hopen : OpenAt mem retired (scanStore mem retired).aside b
    · rw [scanBlock_open hopen] at h
      cases h
    · rw [scanBlock_filled halive hfree hopen] at h
      cases h

/-- The block that becomes the spare: the lowest FREE one. -/
theorem firstFree_iff {b : Nat} : (scanJudged mem retired).firstBlock .free = some b ↔
    FreeAt mem retired b ∧ ∀ c, FreeAt mem retired c → b ≤ c := by
  rw [Store.firstBlock, find_rising List.pairwise_lt_range]
  simp only [List.mem_range, beq_iff_eq, beq_eq_false_iff_ne]
  constructor
  · rintro ⟨hb, hfree, hlow⟩
    rw [scanJudged_block hb, scanBlock_free_iff] at hfree
    refine ⟨hfree, fun c hc => ?_⟩
    refine Classical.byContradiction fun hlt => ?_
    refine hlow c hc.1 (by omega) ?_
    rw [scanJudged_block hc.1, scanBlock_free hc]
  · rintro ⟨hfree, hlow⟩
    refine ⟨hfree.1, (scanJudged_block hfree.1).trans (scanBlock_free hfree), fun c hc hlt he => ?_⟩
    rw [scanJudged_block hc, scanBlock_free_iff] at he
    have := hlow c he
    omega

theorem firstFree_none : (scanJudged mem retired).firstBlock .free = none ↔ ∀ b, ¬ FreeAt mem retired b := by
  simp only [Store.firstBlock, List.find?_eq_none, List.mem_range, beq_iff_eq]
  constructor
  · intro h b hfree
    exact h b hfree.1 ((scanJudged_block hfree.1).trans (scanBlock_free hfree))
  · intro h b hb he
    rw [scanJudged_block hb, scanBlock_free_iff] at he
    exact h b he

/-- The three ends of the choice of a spare. -/
theorem scanStore_cases :
    (∃ b, FreeAt mem retired b ∧ (∀ c, FreeAt mem retired c → b ≤ c) ∧
      (scanStore mem retired).store = (scanJudged mem retired).setBlock b .spare) ∨
    ((∀ b, ¬ FreeAt mem retired b) ∧ (∃ b, RedundantAt mem retired b) ∧
      (scanStore mem retired).store = scanJudged mem retired) ∨
    ((∀ b, ¬ FreeAt mem retired b) ∧ (∀ b, ¬ RedundantAt mem retired b) ∧
      (scanStore mem retired).store =
        { scanJudged mem retired with
          degraded := true, fault := some { kind := .degraded, block := none, uptime := 0, more := false } }) := by
  rw [scanStore_store]
  unfold Store.scanSpare
  cases hfirst : (scanJudged mem retired).firstBlock .free with
  | some b =>
    obtain ⟨hfree, hlow⟩ := firstFree_iff.1 hfirst
    exact .inl ⟨b, hfree, hlow, rfl⟩
  | none =>
    have hno := firstFree_none.1 hfirst
    cases haside : (scanStore mem retired).aside with
    | some b => exact .inr (.inl ⟨hno, ⟨b, ((scanAside_iff hno b).1 haside).1⟩, rfl⟩)
    | none => exact .inr (.inr ⟨hno, (scanAside_none hno).1 haside, rfl⟩)

/-- The choice of a spare leaves all but the block states, DEGRADED and its fault. -/
theorem scanStore_keeps : ∃ blocks degraded fault,
    (scanStore mem retired).store = { scanRead mem retired with blocks := blocks, degraded := degraded, fault := fault } := by
  rcases scanStore_cases (mem := mem) (retired := retired) with ⟨b, -, -, h⟩ | ⟨-, -, h⟩ | ⟨-, -, h⟩
  · exact ⟨_, _, _, h⟩
  · exact ⟨_, _, _, h⟩
  · exact ⟨_, _, _, h⟩

/-- A block that is not FREE keeps the state that the scan judged. -/
theorem scanStore_block {b : Nat} (hb : b < 40) (hfree : ¬ FreeAt mem retired b) : (scanStore mem retired).store.block b =
    scanBlock retired (scanFree mem retired) (scanOpen mem retired) b := by
  rcases scanStore_cases (mem := mem) (retired := retired) with ⟨c, hc, -, h⟩ | ⟨-, -, h⟩ | ⟨-, -, h⟩
  · rw [h, block_setBlock_other (fun e : b = c => hfree (e ▸ hc)), scanJudged_block hb]
  · rw [h, scanJudged_block hb]
  · rw [h, ← scanJudged_block hb]
    rfl

theorem scanStore_entry (n : Nat) : (scanStore mem retired).store.entry n = scanEntry mem retired n := by
  obtain ⟨blocks, degraded, fault, h⟩ := scanStore_keeps (mem := mem) (retired := retired)
  rw [h]
  exact find_scanMap n

theorem candidate_not_free {b : Nat} (h : CandidateAt mem retired b) : ¬ FreeAt mem retired b := by
  obtain ⟨-, -, ⟨k, hk, hused⟩, -⟩ := h
  rintro ⟨-, -, hfree⟩
  rw [hfree k hk] at hused
  cases hused

/-- The scan by R60, R61 and R72. -/
theorem scanStore_finds : ScanFinds mem retired (scanStore mem retired) := by
  obtain ⟨blocks, degraded, fault, hkeeps⟩ := scanStore_keeps (mem := mem) (retired := retired)
  constructor
  case array => rw [hkeeps]; rfl
  case used =>
    intro p hp halive
    rw [hkeeps]
    exact isUsed_scan rfl hp halive
  case live => exact fun n p g h => (scanStore_entry n).trans (scanEntry_of_live h)
  case never =>
    intro n h
    rw [scanStore_entry, scanEntry, bestPage_none_of_never h]
    rfl
  case noAside => rintro ⟨b, h⟩; exact scanAside_of_free h
  case aside => exact scanAside_iff
  case unread =>
    intro b hb h
    exact (scanStore_block hb fun hf => Bool.false_ne_true (h.symm.trans hf.2.1)).trans (scanBlock_retired h)
  case spare =>
    intro b hb hlow
    rcases scanStore_cases (mem := mem) (retired := retired) with ⟨c, hc, hclow, h⟩ | ⟨hno, -⟩ | ⟨hno, -⟩
    · obtain rfl : b = c := Nat.le_antisymm (hlow c hc) (hclow b hb)
      rw [h, block_setBlock_self (by simpa [scanJudged] using hb.1)]
    · exact absurd hb (hno b)
    · exact absurd hb (hno b)
  case free =>
    intro b c hb hc hlt
    rcases scanStore_cases (mem := mem) (retired := retired) with ⟨d, hd, hdlow, h⟩ | ⟨hno, -⟩ | ⟨hno, -⟩
    · have hne : b ≠ d := by have := hdlow c hc; omega
      rw [h, block_setBlock_other hne, scanJudged_block hb.1, scanBlock_free hb]
    · exact absurd hb (hno b)
    · exact absurd hb (hno b)
  case opened => exact fun b h => (scanStore_block h.1.1 (candidate_not_free h.1)).trans (scanBlock_open h)
  case filled =>
    exact fun b hb halive hfree hopen => (scanStore_block hb hfree).trans (scanBlock_filled halive hfree hopen)
  case degraded =>
    rcases scanStore_cases (mem := mem) (retired := retired) with ⟨b, hb, -, h⟩ | ⟨-, ⟨b, hb⟩, h⟩ | ⟨hno, hred, h⟩
    · exact iff_of_false (by rw [h]; exact Bool.false_ne_true) fun hall => hall.1 b hb
    · exact iff_of_false (by rw [h]; exact Bool.false_ne_true) fun hall => hall.2 b hb
    · exact iff_of_true (by rw [h]) ⟨hno, hred⟩
  case fault =>
    rcases scanStore_cases (mem := mem) (retired := retired) with ⟨b, -, -, h⟩ | ⟨-, -, h⟩ | ⟨-, -, h⟩
    · rw [h]; rfl
    · rw [h]; rfl
    · rw [h]; rfl
  case idle =>
    rw [hkeeps]
    exact ⟨rfl, rfl, rfl, rfl, rfl, rfl, rfl⟩

/-! ### The recovery erase that follows (R61) -/

/-- A slot map entry as the recovery of a block leaves it. -/
def movedEntry (goods : List PlacedPage) (b : Nat) (e : SlotEntry) : SlotEntry :=
  if blockOf e.page = b then { e with page := ((duplicateOf goods b e).map (·.page)).getD e.page } else e

theorem startRecovery_eq (st : Store) (goods : List PlacedPage) (b : Nat) :
    st.startRecovery goods b = { st with op := some (.recoveryErase b), map := st.map.map (movedEntry goods b) } := by
  unfold Store.startRecovery movedEntry
  congr 1
  refine List.map_congr_left fun e _ => ?_
  cases duplicateOf goods b e <;> rfl

theorem movedEntry_slot (goods : List PlacedPage) (b : Nat) (e : SlotEntry) : (movedEntry goods b e).slot = e.slot := by
  unfold movedEntry
  split <;> rfl

theorem startRecovery_entry (st : Store) (goods : List PlacedPage) (b n : Nat) :
    (st.startRecovery goods b).entry n = (st.entry n).map (movedEntry goods b) := by
  rw [startRecovery_eq]
  unfold Store.entry
  rw [List.find?_map]
  congr 2
  funext e
  exact congrArg (· == n) (movedEntry_slot goods b e)

theorem recover_none {x : Scan} (h : x.aside = none) : x.recover = x.store := by
  unfold Scan.recover
  rw [h]

theorem recover_some {x : Scan} {b : Nat} (h : x.aside = some b) : x.recover = x.store.startRecovery x.goods b := by
  unfold Scan.recover
  rw [h]

/-- The recovery moves each entry of the block set aside to its duplicate, and nothing else. -/
theorem scanStore_recovers : Recovers mem retired (scanStore mem retired) (scanStore mem retired).recover := by
  constructor
  case keeps => exact recover_none
  case erase =>
    intro b hb
    rw [recover_some hb, startRecovery_eq]
  case stays =>
    intro b n hb hout
    rw [recover_some hb, startRecovery_entry]
    cases he : (scanStore mem retired).store.entry n with
    | none => rfl
    | some e => exact congrArg some (if_neg (hout e he))
  case moves =>
    intro b n e q h hb he hin hdup hbest
    obtain ⟨g, -, hform⟩ := live_of_scanEntry ((scanStore_entry n).symm.trans he)
    have hslot : e.slot = n := by rw [hform]
    have hchosen : duplicateOf (scanGoods mem retired) b e = some { page := q, good := h } :=
      duplicateOf_eq (hslot ▸ hdup) (hslot ▸ hbest)
    rw [recover_some hb, startRecovery_entry, he, Option.map_some, scanStore_goods]
    unfold movedEntry
    rw [if_pos (show blockOf e.page = b from hin), hchosen]
    rfl

/-- The recovery leaves the array to the erase that it begins. -/
theorem recover_mem : (scanStore mem retired).recover.mem = mem := by
  have harray := (scanStore_finds (mem := mem) (retired := retired)).array
  cases haside : (scanStore mem retired).aside with
  | none => rw [recover_none haside, harray]
  | some b => rw [recover_some haside, startRecovery_eq, harray]

/-! ### The records that the scan found -/

theorem scanStore_liveRec {n : Nat} {e : SlotEntry} (h : (scanStore mem retired).store.entry n = some e) :
    (scanStore mem retired).store.liveRec n = (parsePage (Mem.readPage mem e.page)).map fun g => g.r := by
  unfold Store.liveRec
  rw [h, (scanStore_finds (mem := mem) (retired := retired)).array]

theorem settings_none {st : Store} (h : st.liveRec 0 = none) : st.settings = Settings.defaults := by
  unfold Store.settings
  rw [h]

theorem settings_some {st : Store} {r : Rec} (h : st.liveRec 0 = some r) : st.settings = settingsOf r.payload := by
  unfold Store.settings
  rw [h]

theorem settingsOf_values {p : Bytes} {v : Nat → Nat} (hlen : p.length = 28) (hv : ∀ k, v k = beNat (slice p (4 * k - 4) 4)) :
    settingsOf p = {
      bank0Base := min 0xFFF000 (v 1) / 4096 * 4096, bank1Base := min 0xFFF000 (v 2) / 4096 * 4096,
      bankSize := max 65536 (min 16777216 (v 3)) / 4096 * 4096, ownerIdle := max 60 (min 3600 (v 4)),
      enablesA := v 5 % 8, enablesS := v 6 % 8, grantsA := v 7 % 64 } := by
  unfold settingsOf
  simp only [if_pos hlen, hv, clampSetting, clamp, Nat.zero_max, Nat.reduceSub, Nat.reduceMul]

theorem bootRecord_none {st : Store} (h : st.liveRec 255 = none) : st.bootRecord = BootRec.empty := by
  unfold Store.bootRecord
  rw [h]

theorem bootRecord_some {st : Store} {r : Rec} (h : st.liveRec 255 = some r) : st.bootRecord = bootRecOf r.payload := by
  unfold Store.bootRecord
  rw [h]

/-- The hold-off entry that an entry of the slot map gives. -/
def heldFor (st : Store) (e : SlotEntry) : Option HoldEntry :=
  if userSlot e.slot then (st.liveRec e.slot).bind fun r => if goodVerifier r then some (loadedHold e.slot r) else none
  else none

theorem holdTable_eq (st : Store) : st.holdTable = st.map.filterMap (heldFor st) := by
  unfold Store.holdTable heldFor
  congr 1
  funext e
  cases st.liveRec e.slot <;> rfl

theorem heldFor_slot {st : Store} {e : SlotEntry} {x : HoldEntry} (h : heldFor st e = some x) : x.slot = e.slot := by
  unfold heldFor at h
  split at h
  · obtain ⟨r, -, hr⟩ := Option.bind_eq_some_iff.1 h
    split at hr
    · cases hr
      rfl
    · cases hr
  · cases h

/-- The hold-off entry of a slot is the one of its slot map entry. -/
theorem holdTable_entry (n : Nat) : (scanStore mem retired).store.holdTable.find? (fun x => x.slot == n) =
    ((scanStore mem retired).store.entry n).bind (heldFor (scanStore mem retired).store) := by
  obtain ⟨blocks, degraded, fault, hkeeps⟩ := scanStore_keeps (mem := mem) (retired := retired)
  have hmap : (scanStore mem retired).store.map = (List.range 256).filterMap (scanEntry mem retired) := by
    rw [hkeeps]
    rfl
  have hslot : ∀ k x, (scanEntry mem retired k).bind (heldFor (scanStore mem retired).store) = some x → x.slot = k := by
    intro k x h
    obtain ⟨e, he, hx⟩ := Option.bind_eq_some_iff.1 h
    obtain ⟨g, -, hform⟩ := live_of_scanEntry he
    rw [heldFor_slot hx, hform]
  rw [holdTable_eq, hmap, List.filterMap_filterMap, find_filterMap_range _ HoldEntry.slot hslot, scanStore_entry]
  split
  · rfl
  · rw [scanEntry_beyond (by omega)]
    rfl

theorem userSlot_iff {n : Nat} : userSlot n = true ↔ 1 ≤ n ∧ n ≤ 254 := by simp [userSlot]

theorem liveRec_entry {st : Store} {n : Nat} {r : Rec} (h : st.liveRec n = some r) : ∃ e, st.entry n = some e := by
  unfold Store.liveRec at h
  cases he : st.entry n with
  | none => rw [he] at h; cases h
  | some e => exact ⟨e, rfl⟩

theorem entry_slot {st : Store} {n : Nat} {e : SlotEntry} (h : st.entry n = some e) : e.slot = n := by
  simpa using List.find?_some h

/-- The hold-off of good parameters does not reach the end of the uptime's range. -/
theorem addSat_holdOff {r : Rec} (h : goodVerifier r = true) (f : Nat) :
    addSat 0 (holdOff (verifierParams r.payload) f) = holdOff (verifierParams r.payload) f := by
  have hC : (verifierParams r.payload).C ≤ 86400 := by
    simp only [goodVerifier, Params.inRange, Bool.and_eq_true, decide_eq_true_eq] at h
    omega
  have hle : holdOff (verifierParams r.payload) f ≤ (verifierParams r.payload).C := by
    unfold holdOff
    dsimp only
    split
    · omega
    · split
      · exact Nat.le_refl _
      · exact Nat.min_le_right _ _
  unfold addSat topWord
  omega

theorem heldFor_good {st : Store} {n : Nat} {e : SlotEntry} {r : Rec} (he : st.entry n = some e) (hn : 1 ≤ n) (hn' : n ≤ 254)
    (hr : st.liveRec n = some r) (hgood : goodVerifier r = true) : heldFor st e =
      some { slot := n, count := verifierCount r.payload, lastEvent := 0,
             holdUntil := holdOff (verifierParams r.payload) (verifierCount r.payload) } := by
  unfold heldFor loadedHold
  rw [entry_slot he, if_pos (userSlot_iff.2 ⟨hn, hn'⟩), hr]
  simp only [Option.bind_some, if_pos hgood, addSat_holdOff hgood]

theorem heldFor_none {st : Store} {n : Nat} {e : SlotEntry} (he : st.entry n = some e)
    (h : ∀ r, 1 ≤ n → n ≤ 254 → st.liveRec n = some r → goodVerifier r = false) : heldFor st e = none := by
  unfold heldFor
  rw [entry_slot he]
  split
  · rename_i hn
    obtain ⟨h1, h2⟩ := userSlot_iff.1 hn
    cases hr : st.liveRec n with
    | none => rfl
    | some r => simp [h r h1 h2 hr]
  · rfl

/-! ### The lifecycle (R44) -/

theorem lifecycle_eq (c : Cells) : c.lifecycle =
    if c.markerPresent = true ∧ c.seedCheck = false then .failed
    else if c.locked 0 = true ∧ c.identity.isSome = false then .failed
    else if c.locked 0 = true ∧ (c.locked 1 = false ∨ c.locked 2 = false) then .failed
    else if c.locked 0 = true then .sealed
    else if c.identity.isSome = true then .personalized
    else .blank := by
  unfold Cells.lifecycle
  simp only [Bool.and_eq_true, Bool.or_eq_true, Bool.not_eq_true', ← Option.not_isSome]
  by_cases hl : c.locked 0 = true
  · simp only [hl, true_and, if_true]
  · simp only [hl, false_and, if_false, Bool.false_eq_true]

theorem identity_isSome (c : Cells) : c.identity.isSome = true ↔ ∃ k, k ∈ c.copies ∧ goodIdentity k = true :=
  List.find?_isSome

/-! ### The load -/

/-- The hold-off table after the load. -/
theorem loaded_entry (s : State) (n : Nat) : s.loaded.owner.entry n =
    ((scanStore s.store.mem s.ota.cells.retired).store.entry n).bind
      (heldFor (scanStore s.store.mem s.ota.cells.retired).store) :=
  holdTable_entry n

theorem loaded_entry_good {s : State} {n : Nat} {r : Rec} (hn : 1 ≤ n) (hn' : n ≤ 254)
    (hr : (scanStore s.store.mem s.ota.cells.retired).store.liveRec n = some r) (hgood : goodVerifier r = true) :
    s.loaded.owner.entry n =
      some { slot := n, count := verifierCount r.payload, lastEvent := 0,
             holdUntil := holdOff (verifierParams r.payload) (verifierCount r.payload) } := by
  obtain ⟨e, he⟩ := liveRec_entry hr
  rw [loaded_entry, he, Option.bind_some, heldFor_good he hn hn' hr hgood]

theorem loaded_entry_none {s : State} {n : Nat}
    (h : ∀ r, 1 ≤ n → n ≤ 254 → (scanStore s.store.mem s.ota.cells.retired).store.liveRec n = some r → goodVerifier r = false) :
    s.loaded.owner.entry n = none := by
  rw [loaded_entry]
  cases he : (scanStore s.store.mem s.ota.cells.retired).store.entry n with
  | none => rfl
  | some e => exact heldFor_none he h

/-- Settles O52: the load read off its record, the scan and what follows it by the lemmas above, the lifecycle by its tests. -/
theorem loadAndLifecycle : Obligations.LoadAndLifecycle := by
  unfold Obligations.LoadAndLifecycle
  constructor
  case left =>
    intro s hpower
    have hkeys : s.loaded.ota.keysExist = true ↔
        s.ota.cells.keysMarker ≠ 0xFF#8 ∧ s.ota.cells.seedCompl = s.ota.cells.seed.map fun x => x ^^^ 0xFF#8 := by
      simp [State.loaded, Ota.load, Ota.judge, Cells.keysExist, Cells.markerPresent, Cells.seedCheck, complBytes]
    refine ⟨s.loaded, if_pos hpower, rfl, rfl, rfl, rfl, rfl, recover_mem, rfl, rfl, hkeys, rfl, rfl, rfl, rfl, rfl, rfl, rfl,
      rfl, rfl, rfl, rfl, rfl, ?_⟩
    refine ⟨scanStore s.store.mem s.ota.cells.retired, scanStore_finds, scanStore_recovers, fun _ _ => scanStore_liveRec,
      settings_none, fun r hr hlen => ?_, fun r v hr hlen hv => ?_, bootRecord_none, fun r => bootRecord_some, ?_, ?_⟩
    · exact (settings_some hr).trans (if_neg hlen)
    · exact (settings_some hr).trans (settingsOf_values hlen hv)
    · exact fun n r hn hn' => loaded_entry_good hn hn'
    · exact fun n => loaded_entry_none
  case right =>
    rintro c marker seedOk locked0 locked1 locked2 copy rfl rfl rfl rfl rfl hcopy
    have hsame : copy = c.identity.isSome := Bool.eq_iff_iff.2 (hcopy.trans (identity_isSome c).symm)
    rw [hsame]
    exact lifecycle_eq c

end Sys2Proof.Machine
/-! What the invariants of the context table, of the loaded keys and of the lanes need of each operation that every command shares
(O58 to O60). -/
namespace Sys2Proof.Machine

/-! ### The relation -/

/-- From the first state to the second the form of the context table, the soundness of the keys and the replay of the log are
kept, each for itself. -/
structure Keeps (s t : State) : Prop where
  table : s.ctx.sound = true → t.ctx.sound = true
  keys  : s.keysSound → t.keysSound
  lanes : s.lanesReplay → t.lanesReplay

/-- A running EXTEND job, not dropped, works on a lane with a value. -/
def State.extending (s : State) (lane : Nat) (v : Bytes) : Prop :=
  ∃ r d l src, s.engine.running = some r ∧ r.dropped = false ∧ r.job = .extend lane v d l src

theorem lanesReplay_iff {s : State} : s.lanesReplay ↔
    s.meas.lanes.length = 8 ∧ (∀ n, n < 8 → s.meas.lane n = replayed n s.meas.log) ∧
      ∀ lane v, s.extending lane v → lane < 8 → v = s.meas.lane lane := by
  unfold State.lanesReplay State.extending
  refine and_congr_right fun _ => and_congr_right fun _ => ⟨?_, ?_⟩
  · rintro h lane v ⟨r, d, l, src, hr, hd, hj⟩
    exact h r lane v d l src hr hd hj
  · exact fun h r lane v d l src hr hd hj => h lane v ⟨r, d, l, src, hr, hd, hj⟩

/-- What the invariants look at is the same in two states; channel A may have left CLOSED, and has not gone there, and a running
job may have ended or been dropped. -/
structure Alike (s t : State) : Prop where
  power   : t.power = s.power
  grantsS : t.chS.grants = s.chS.grants
  grantsA : t.chA.grants = s.chA.grants
  shut    : t.chA.state = .closed → s.chA.state = .closed
  ctx     : t.ctx = s.ctx
  owner   : s.owner.grant.isSome = true → t.owner.grant.isSome = true
  gens    : ∀ n, t.store.gen n = s.store.gen n
  values  : t.meas.lanes = s.meas.lanes
  log     : t.meas.log = s.meas.log
  running : ∀ lane v, t.extending lane v → s.extending lane v

theorem granted_congr {s t : State} (hS : t.chS.grants = s.chS.grants) (hA : t.chA.grants = s.chA.grants) (ch : Chan)
    (d : Option Domain) : t.granted ch d = s.granted ch d := by
  cases d with
  | none => rfl
  | some d =>
    cases ch with
    | S => exact congrArg (·.getLsbD d.bit) hS
    | A => exact congrArg (·.getLsbD d.bit) hA

namespace Keeps

@[simp] theorem refl (s : State) : Keeps s s := ⟨id, id, id⟩

theorem trans {s t u : State} (h : Keeps s t) (h' : Keeps t u) : Keeps s u :=
  ⟨h'.table ∘ h.table, h'.keys ∘ h.keys, h'.lanes ∘ h.lanes⟩

end Keeps

theorem Alike.keeps {s t : State} (h : Alike s t) : Keeps s t where
  table := by rw [h.ctx]; exact id
  keys := by
    rintro ⟨hvalid, hshut, hdark⟩
    refine ⟨fun e c he hc => ?_, fun hclosed => h.grantsA.trans (hshut (h.shut hclosed)), fun hpower => ?_⟩
    · obtain ⟨hgen, hgranted, howner⟩ := hvalid e c (h.ctx ▸ he) hc
      exact ⟨hgen.trans (h.gens c.slot).symm,
        (granted_congr h.grantsS h.grantsA c.owner c.domain).trans hgranted, fun hn => h.owner (howner hn)⟩
    · rw [h.grantsS, h.grantsA]
      exact hdark (h.power ▸ hpower)
  lanes := by
    have hlane (n : Nat) : t.meas.lane n = s.meas.lane n := congrArg (·.getD n zeros32) h.values
    rw [lanesReplay_iff, lanesReplay_iff]
    rintro ⟨hlen, hreplay, hrun⟩
    refine ⟨by rw [h.values]; exact hlen, fun n hn => ?_, fun lane v hext hlt => ?_⟩
    · rw [hlane, h.log]
      exact hreplay n hn
    · rw [hlane]
      exact hrun lane v (h.running lane v hext) hlt

/-! ### Invalidations (R130) -/

/-- An invalidation pins no entry. -/
theorem sound_invalidate {t : CtxTable} (p : Ctx → Bool) (h : t.sound = true) : (t.invalidate p).sound = true := by
  unfold CtxTable.sound CtxTable.pinnedCount at *
  simp only [Bool.and_eq_true, beq_iff_eq, decide_eq_true_eq, invalidate_eq, List.length_map, ← List.countP_eq_length_filter,
    List.countP_map] at *
  refine ⟨h.1, Nat.le_trans (List.countP_mono_left fun e _ he => ?_) h.2⟩
  cases hc : e.ctx with
  | none => simp [freeIf_none hc, hc] at he
  | some c =>
    cases hp : p c with
    | true => simp [freeIf_some hc, hp] at he
    | false => simpa [freeIf_some hc, hp, hc] using he

/-- The keys stay valid when each that is left after an invalidation is. -/
theorem keysValid_invalidate {s t : State} (p : Ctx → Bool) (hctx : t.ctx = s.ctx.invalidate p)
    (hkeys : ∀ e c, e ∈ s.ctx.entries → e.ctx = some c → p c = false →
      c.gen = t.store.gen c.slot ∧ t.granted c.owner c.domain = true ∧ (c.needsOwner = true → t.owner.grant.isSome = true)) :
    t.keysValid := by
  intro e c he hc
  obtain ⟨hin, hp⟩ := loaded_of_invalidate (hctx ▸ he) hc
  exact hkeys e c hin hc hp

namespace Keeps

variable {s t : State}

theorem alike {u : State} (h : Keeps s t) (h' : Alike t u) : Keeps s u := h.trans h'.keeps

/-! ### Plain updates -/

theorem setChan (h : Keeps s t) (ch : Chan) (c : Channel) (hg : c.grants = (t.chan ch).grants)
    (hs : ch = .A → c.state = .closed → t.chA.state = .closed) : Keeps s (t.setChan ch c) := by
  cases ch with
  | S => exact h.alike ⟨rfl, hg, rfl, id, rfl, id, fun _ => rfl, rfl, rfl, fun _ _ => id⟩
  | A => exact h.alike ⟨rfl, rfl, hg, hs rfl, rfl, id, fun _ => rfl, rfl, rfl, fun _ _ => id⟩

@[simp] theorem setWork (h : Keeps s t) (ch : Chan) (w : Work) : Keeps s (t.setWork ch w) :=
  h.setChan ch _ rfl (by rintro rfl; exact id)

@[simp] theorem reply (h : Keeps s t) (ch : Chan) (st : Status) (b : Bytes) : Keeps s (t.reply ch st b) :=
  h.setChan ch _ rfl (by rintro - e; cases e)

@[simp] theorem refuse (h : Keeps s t) (ch : Chan) (st : Status) : Keeps s (t.refuse ch st) := h.reply ch st []

@[simp] theorem raise (h : Keeps s t) (ch : Chan) (e : Event) : Keeps s (t.raise ch e) :=
  h.setChan ch _ (by simp) (by rintro rfl hc; rwa [Channel.raise_state] at hc)

@[simp] theorem mapStore (h : Keeps s t) (f : Store → Store) (hm : (f t.store).map = t.store.map) : Keeps s (t.mapStore f) :=
  h.alike ⟨rfl, rfl, rfl, id, rfl, id, fun n => congrArg (mapGen · n) hm, rfl, rfl, fun _ _ => id⟩

/-- A store that moves pages and leaves each slot's generation. -/
theorem mapStore_gens (h : Keeps s t) (f : Store → Store) (hgens : ∀ n, (f t.store).gen n = t.store.gen n) :
    Keeps s (t.mapStore f) :=
  h.alike ⟨rfl, rfl, rfl, id, rfl, id, hgens, rfl, rfl, fun _ _ => id⟩

@[simp] theorem mapOta (h : Keeps s t) (f : Ota → Ota) : Keeps s (t.mapOta f) :=
  h.alike ⟨rfl, rfl, rfl, id, rfl, id, fun _ => rfl, rfl, rfl, fun _ _ => id⟩

@[simp] theorem mapBoot (h : Keeps s t) (f : Boot → Boot) : Keeps s (t.mapBoot f) :=
  h.alike ⟨rfl, rfl, rfl, id, rfl, id, fun _ => rfl, rfl, rfl, fun _ _ => id⟩

@[simp] theorem mapChecker (h : Keeps s t) (f : Checker → Checker) : Keeps s (t.mapChecker f) :=
  h.alike ⟨rfl, rfl, rfl, id, rfl, id, fun _ => rfl, rfl, rfl, fun _ _ => id⟩

/-- A running job that is dropped works on no lane any more. -/
theorem extending_of {u : State} (hr : ∀ r, u.engine.running = some r → r.dropped = false →
      ∃ r', t.engine.running = some r' ∧ r'.dropped = false ∧
        (∀ lane v d l src, r.job = .extend lane v d l src → r'.job = r.job))
    (lane : Nat) (v : Bytes) (h : u.extending lane v) : t.extending lane v := by
  obtain ⟨r, d, l, src, hrun, hd, hj⟩ := h
  obtain ⟨r', hrun', hd', hjob⟩ := hr r hrun hd
  exact ⟨r', d, l, src, hrun', hd', (hjob lane v d l src hj).trans hj⟩

theorem withEngine (h : Keeps s t) (e : Engine) (hr : e.running = t.engine.running) : Keeps s { t with engine := e } :=
  h.alike ⟨rfl, rfl, rfl, id, rfl, id, fun _ => rfl, rfl, rfl,
    extending_of fun r hrun hd => ⟨r, hr ▸ hrun, hd, fun _ _ _ _ _ _ => rfl⟩⟩

@[simp] theorem mapEngine (h : Keeps s t) (f : Engine → Engine) (hr : (f t.engine).running = t.engine.running) :
    Keeps s (t.mapEngine f) := h.withEngine _ hr

@[simp] theorem setClaim_running (e : Engine) (c : Claimant) (x : Option Pending) : (e.setClaim c x).running = e.running := by
  cases c <;> rfl

@[simp] theorem fileClaim (h : Keeps s t) (who : Claimant) (c : Claim) : Keeps s (t.fileClaim who c) :=
  h.withEngine _ (setClaim_running _ _ _)

@[simp] theorem fileJob (h : Keeps s t) (j : WriteJob) : Keeps s (t.fileJob j) :=
  h.mapStore (fun st => { st with waiters := st.waiters ++ [.job j] }) rfl

@[simp] theorem fileOta (h : Keeps s t) (o : OtaOp) : Keeps s (t.fileOta o) :=
  h.mapOta fun x => { x with queue := x.queue ++ [o] }

@[simp] theorem ask (h : Keeps s t) (c : Change) : Keeps s (t.ask c) :=
  h.mapBoot fun b => { b with changes := b.changes ++ [{ change := c, live := true }] }

theorem withOwner (h : Keeps s t) (o : Owner) (hg : t.owner.grant.isSome = true → o.grant.isSome = true) :
    Keeps s { t with owner := o } :=
  h.alike ⟨rfl, rfl, rfl, id, rfl, hg, fun _ => rfl, rfl, rfl, fun _ _ => id⟩

@[simp] theorem setHold (h : Keeps s t) (x : HoldEntry) : Keeps s (t.setHold x) := h.withOwner _ id

@[simp] theorem withSettings (h : Keeps s t) (x : Settings) : Keeps s { t with settings := x } :=
  h.alike ⟨rfl, rfl, rfl, id, rfl, id, fun _ => rfl, rfl, rfl, fun _ _ => id⟩

@[simp] theorem withLink (h : Keeps s t) (x : Link) : Keeps s { t with link := x } :=
  h.alike ⟨rfl, rfl, rfl, id, rfl, id, fun _ => rfl, rfl, rfl, fun _ _ => id⟩

@[simp] theorem useGrant (h : Keeps s t) : Keeps s t.useGrant := by
  unfold State.useGrant
  split
  · exact h
  · exact h.withOwner _ fun _ => rfl

/-- The grant is cleared and its entries go with it (R111). -/
theorem dropGrant (h : Keeps s t) (o : Owner) : Keeps s (State.invalidate { t with owner := o } (·.needsOwner)) := by
  refine h.trans ⟨sound_invalidate _, ?_, id⟩
  rintro ⟨hvalid, hshut, hdark⟩
  refine ⟨keysValid_invalidate (·.needsOwner) rfl fun e c he hc hneeds => ?_, hshut, hdark⟩
  obtain ⟨hgen, hgranted, -⟩ := hvalid e c he hc
  exact ⟨hgen, hgranted, fun h => absurd (hneeds.symm.trans h) Bool.false_ne_true⟩

@[simp] theorem endGrant (h : Keeps s t) : Keeps s t.endGrant := by
  unfold State.endGrant
  split
  · exact h
  · exact (h.dropGrant { t.owner with grant := none, idleDue := false }).raise .A .ownerGrantEnded

@[simp] theorem judgeWrite (h : Keeps s t) (ch : Chan) (d : Option Domain) : Keeps s (t.judgeWrite ch d).2 := by
  unfold State.judgeWrite
  repeat' split
  all_goals simp [h]

/-! ### The boot controller and the image checker

An operation made of the ones above keeps what its parts keep, one after another: `simp` proves the hypothesis of the outermost
lemma by the lemma of the part inside it, and so on inward, to the depth given. -/

@[simp] theorem startCheck (h : Keeps s t) (b : Bank) (f : Bool) : Keeps s (t.startCheck b f) := by
  simp (maxDischargeDepth := 9) [State.startCheck, h]

@[simp] theorem enterFailed (h : Keeps s t) : Keeps s t.enterFailed := by
  simp (maxDischargeDepth := 9) [State.enterFailed, h]

@[simp] theorem nextBank (h : Keeps s t) (b : Bank) (f : Bool) : Keeps s (t.nextBank b f) := by
  unfold State.nextBank; repeat' split
  all_goals simp (maxDischargeDepth := 9) [h]

@[simp] theorem firstTry (h : Keeps s t) : Keeps s t.firstTry := by
  unfold State.firstTry; dsimp only; repeat' split
  all_goals simp (maxDischargeDepth := 9) [h]

@[simp] theorem bankChoice (h : Keeps s t) : Keeps s t.bankChoice := by
  unfold State.bankChoice; dsimp only; split <;> simp (maxDischargeDepth := 9) [h]

@[simp] theorem rootsChanged (h : Keeps s t) : Keeps s t.rootsChanged := by
  unfold State.rootsChanged; split <;> simp (maxDischargeDepth := 9) [h]

@[simp] theorem bootCheckFailed (h : Keeps s t) (r : CheckReason) : Keeps s (t.bootCheckFailed r) := by
  unfold State.bootCheckFailed; dsimp only; split <;> simp (maxDischargeDepth := 9) [h]

@[simp] theorem afterRecord (h : Keeps s t) (b : Bank) (f : Bool) : Keeps s (t.afterRecord b f) := by
  unfold State.afterRecord; dsimp only; split <;> simp (maxDischargeDepth := 9) [h]

@[simp] theorem bootPassed (h : Keeps s t) (b : Bank) (e : Epochs) (d : Bytes) : Keeps s (t.bootPassed b e d) := by
  unfold State.bootPassed; dsimp only; split <;> simp (maxDischargeDepth := 9) [h]

@[simp] theorem factoryAdvanced (h : Keeps s t) (o : AdvOut) : Keeps s (t.factoryAdvanced o) := by
  unfold State.factoryAdvanced; dsimp only; repeat' split
  all_goals simp (maxDischargeDepth := 9) [h]

@[simp] theorem endAdmission (h : Keeps s t) (a : AdmState) (r : Option AdmReason) (x : Option AdmResult) :
    Keeps s (t.endAdmission a r x) := by
  simp (maxDischargeDepth := 9) [State.endAdmission, h]

@[simp] theorem failAdmission (h : Keeps s t) (r : AdmReason) : Keeps s (t.failAdmission r) := by
  simp (maxDischargeDepth := 9) [State.failAdmission, h]

@[simp] theorem checkFailed (h : Keeps s t) (r : CheckReason) : Keeps s (t.checkFailed r) := by
  unfold State.checkFailed; split <;> simp (maxDischargeDepth := 9) [h]

@[simp] theorem finishConfirm (h : Keeps s t) (st : Status) : Keeps s (t.finishConfirm st) := by
  unfold State.finishConfirm; dsimp only; repeat' split
  all_goals simp (maxDischargeDepth := 9) [h]

@[simp] theorem judgeOther (h : Keeps s t) (c : Confirm) : Keeps s (t.judgeOther c) := by
  unfold State.judgeOther; dsimp only; split <;> simp (maxDischargeDepth := 9) [h]

@[simp] theorem confirmAdvanced (h : Keeps s t) (o : AdvOut) : Keeps s (t.confirmAdvanced o) := by
  unfold State.confirmAdvanced; dsimp only; repeat' split
  all_goals simp (maxDischargeDepth := 9) [h]

@[simp] theorem changeEnded (h : Keeps s t) (a : Asked) (st : Status) : Keeps s (t.changeEnded a st) := by
  unfold State.changeEnded; dsimp only; repeat' split
  all_goals simp (maxDischargeDepth := 9) [h]

@[simp] theorem startRead (h : Keeps s t) (r : FlashRead) : Keeps s (t.startRead r) := by
  simp (maxDischargeDepth := 9) [State.startRead, h]

@[simp] theorem readChunk (h : Keeps s t) : Keeps s t.readChunk := by
  simp (maxDischargeDepth := 9) [State.readChunk, h]

@[simp] theorem startSegment (h : Keeps s t) : Keeps s t.startSegment := by
  simp (maxDischargeDepth := 9) [State.startSegment, h]

@[simp] theorem extendNext (h : Keeps s t) : Keeps s t.extendNext := by
  unfold State.extendNext; dsimp only; split <;> simp (maxDischargeDepth := 9) [h]

@[simp] theorem allHashed (h : Keeps s t) : Keeps s t.allHashed := by
  unfold State.allHashed; split <;> simp (maxDischargeDepth := 9) [h]

/-! ### The store controller -/

@[simp] theorem recordFault (h : Keeps s t) (k : FaultKind) (b : Option Nat) : Keeps s (t.recordFault k b) := by
  simp (maxDischargeDepth := 9) [State.recordFault, h]

@[simp] theorem chooseSpare (h : Keeps s t) (b : Nat) : Keeps s (t.chooseSpare b) := by
  unfold State.chooseSpare; split <;> simp (maxDischargeDepth := 9) [h]

@[simp] theorem retireBlock (h : Keeps s t) (b : Nat) : Keeps s (t.retireBlock b) := by
  simp (maxDischargeDepth := 9) [State.retireBlock, h]

@[simp] theorem retireEnded (h : Keeps s t) (b : Nat) (ok : Bool) : Keeps s (t.retireEnded b ok) := by
  unfold State.retireEnded; dsimp only; split <;> simp (maxDischargeDepth := 9) [h]

@[simp] theorem replyJob (h : Keeps s t) (ch : Chan) (o : JobEnd) (x : Bytes) : Keeps s (t.replyJob ch o x) := by
  unfold State.replyJob; split <;> simp (maxDischargeDepth := 9) [h]

@[simp] theorem resetReply (h : Keeps s t) (st : Status) (d l : Nat) (o : Status) : Keeps s (t.resetReply st d l o) := by
  simp (maxDischargeDepth := 9) [State.resetReply, h]

@[simp] theorem resetWalkFrom (h : Keeps s t) (n d l : Nat) (o : Status) : Keeps s (t.resetWalkFrom n d l o) := by
  unfold State.resetWalkFrom; split <;> simp (maxDischargeDepth := 9) [h]

@[simp] theorem resetJobEnded (h : Keeps s t) (o : JobEnd) : Keeps s (t.resetJobEnded o) := by
  unfold State.resetJobEnded; repeat' split
  all_goals simp (maxDischargeDepth := 9) [h]

@[simp] theorem noteEntry (h : Keeps s t) (n : Nat) : Keeps s (t.noteEntry n) := by
  unfold State.noteEntry; split <;> simp (maxDischargeDepth := 9) [h]

@[simp] theorem prechargeEnded (h : Keeps s t) (j : WriteJob) (o : JobEnd) : Keeps s (t.prechargeEnded j o) := by
  unfold State.prechargeEnded; dsimp only; repeat' split
  all_goals simp (maxDischargeDepth := 9) [h]

@[simp] theorem matchEnded (h : Keeps s t) (j : WriteJob) (o : JobEnd) : Keeps s (t.matchEnded j o) := by
  unfold State.matchEnded; dsimp only; repeat' split
  all_goals simp (maxDischargeDepth := 9) [h]

@[simp] theorem setVerifierEnded (h : Keeps s t) (j : WriteJob) (o : JobEnd) : Keeps s (t.setVerifierEnded j o) := by
  unfold State.setVerifierEnded; dsimp only; repeat' split
  all_goals simp (maxDischargeDepth := 9) [h]

@[simp] theorem settingEnded (h : Keeps s t) (n v : Nat) (o : JobEnd) : Keeps s (t.settingEnded n v o) := by
  unfold State.settingEnded; split <;> simp (maxDischargeDepth := 9) [h]

@[simp] theorem generateEnded (h : Keeps s t) (j : WriteJob) (o : JobEnd) : Keeps s (t.generateEnded j o) := by
  unfold State.generateEnded; repeat' split
  all_goals simp (maxDischargeDepth := 9) [h]

@[simp] theorem bootJobEnded (h : Keeps s t) (o : JobEnd) : Keeps s (t.bootJobEnded o) := by
  unfold State.bootJobEnded; dsimp only; split <;> simp (maxDischargeDepth := 9) [h]

@[simp] theorem deliver (h : Keeps s t) (j : WriteJob) (o : JobEnd) : Keeps s (t.deliver j o) := by
  unfold State.deliver; repeat' split
  all_goals simp (maxDischargeDepth := 9) [h]

@[simp] theorem endJob (h : Keeps s t) (o : JobEnd) : Keeps s (t.endJob o) := by
  unfold State.endJob; split <;> simp (maxDischargeDepth := 9) [h]

@[simp] theorem judgeVerifier (h : Keeps s t) : Keeps s t.judgeVerifier.2 := by
  unfold State.judgeVerifier; repeat' split
  all_goals simp (maxDischargeDepth := 9) [h]

@[simp] theorem judgeOver (h : Keeps s t) (ch : Chan) (n : Nat) : Keeps s (t.judgeOver ch n).2 := by
  unfold State.judgeOver; split <;> simp (maxDischargeDepth := 9) [h]

@[simp] theorem judgeTakeWrite (h : Keeps s t) (ch : Chan) (j : WriteJob) : Keeps s (t.judgeTakeWrite ch j).2 := by
  unfold State.judgeTakeWrite; dsimp only; repeat' split
  all_goals simp (maxDischargeDepth := 9) [h]

@[simp] theorem judgeTakeDelete (h : Keeps s t) (ch : Chan) (j : WriteJob) : Keeps s (t.judgeTakeDelete ch j).2 := by
  unfold State.judgeTakeDelete; dsimp only; split <;> simp (maxDischargeDepth := 9) [h]

@[simp] theorem judgeTakeVerifier (h : Keeps s t) (j : WriteJob) : Keeps s (t.judgeTakeVerifier j).2 := by
  unfold State.judgeTakeVerifier; dsimp only; repeat' split
  all_goals simp (maxDischargeDepth := 9) [h]

@[simp] theorem judgeTake (h : Keeps s t) (j : WriteJob) : Keeps s (t.judgeTake j).2 := by
  unfold State.judgeTake; split <;> simp (maxDischargeDepth := 9) [h]

@[simp] theorem takeJob (h : Keeps s t) (j : WriteJob) (r : List WriteJob) : Keeps s (t.takeJob j r) := by
  have htaken : Keeps s (t.mapStore fun st => { st with fifo := r, taken := some { job := j, attempts := 0 } }) :=
    h.mapStore _ rfl
  unfold State.takeJob; dsimp only
  split
  · exact htaken.endJob _
  · have hjudged := htaken.judgeTake j
    generalize (t.mapStore fun st => { st with fifo := r, taken := some { job := j, attempts := 0 } }).judgeTake j = x at hjudged
    obtain ⟨o, u⟩ := x
    cases o with
    | none => exact hjudged
    | some o => exact hjudged.endJob o

@[simp] theorem abandonCompaction (h : Keeps s t) (c : Compaction) : Keeps s (t.abandonCompaction c) := by
  simp (maxDischargeDepth := 9) [State.abandonCompaction, h]

@[simp] theorem copyNext (h : Keeps s t) : Keeps s t.copyNext := by
  unfold State.copyNext; repeat' split
  all_goals simp (maxDischargeDepth := 9) [h]

@[simp] theorem startCompaction (h : Keeps s t) (v t' : Nat) : Keeps s (t.startCompaction v t') := by
  simp (maxDischargeDepth := 9) [State.startCompaction, h]

@[simp] theorem startProgram (h : Keeps s t) (j : WriteJob) (p : Nat) : Keeps s (t.startProgram j p) := by
  simp (maxDischargeDepth := 9) [State.startProgram, h]

@[simp] theorem seekPage (h : Keeps s t) (j : WriteJob) : Keeps s (t.seekPage j) := by
  unfold State.seekPage; repeat' split
  all_goals simp (maxDischargeDepth := 9) [h]

@[simp] theorem verifierGone (h : Keeps s t) (n : Nat) : Keeps s (t.verifierGone n) := by
  have htable : Keeps s { t with owner := { t.owner with table := t.owner.table.filter fun e => e.slot != n } } :=
    h.withOwner _ id
  unfold State.verifierGone; dsimp only; split
  · exact htable.endGrant
  · exact htable

/-! ### The one-time area's controller -/

@[simp] theorem rejudge (h : Keeps s t) : Keeps s t.rejudge := by
  unfold State.rejudge; dsimp only; split <;> simp (maxDischargeDepth := 9) [h]

@[simp] theorem identityEnded (h : Keeps s t) (p : Nat) : Keeps s (t.identityEnded p) := by
  simp (maxDischargeDepth := 9) [State.identityEnded, h]

@[simp] theorem keysEnded (h : Keeps s t) (x : Bytes) (p : Nat) : Keeps s (t.keysEnded x p) := by
  unfold State.keysEnded; dsimp only; split <;> simp (maxDischargeDepth := 9) [h]

@[simp] theorem rootEnded (h : Keeps s t) (e : Nat) (d : Bytes) (p : Nat) : Keeps s (t.rootEnded e d p) := by
  unfold State.rootEnded; dsimp only; split <;> simp (maxDischargeDepth := 9) [h]

@[simp] theorem sealEnded (h : Keeps s t) (x : Option Nat) : Keeps s (t.sealEnded x) := by
  unfold State.sealEnded; dsimp only; split <;> simp (maxDischargeDepth := 9) [h]

@[simp] theorem advanceEnded (h : Keeps s t) (k : Counter) (f : AdvanceFor) (st : Status) : Keeps s (t.advanceEnded k f st) := by
  unfold State.advanceEnded; dsimp only; repeat' split
  all_goals simp (maxDischargeDepth := 9) [h]

@[simp] theorem bytesEnded (h : Keeps s t) (o : OtaOp) (p : Nat) : Keeps s (t.bytesEnded o p) := by
  unfold State.bytesEnded; dsimp only; split <;> simp (maxDischargeDepth := 9) [h]

@[simp] theorem otaAt (h : Keeps s t) (o : OtaOp) (p : Nat) : Keeps s (t.otaAt o p) := by
  simp (maxDischargeDepth := 9) [State.otaAt, h]

@[simp] theorem takeOta (h : Keeps s t) (o : OtaOp) : Keeps s (t.takeOta o) := by
  unfold State.takeOta; repeat' split
  all_goals simp (maxDischargeDepth := 9) [h]

@[simp] theorem byteProgrammed (h : Keeps s t) (o : OtaOp) (p : Nat) (x : Byte) : Keeps s (t.byteProgrammed o p x) := by
  unfold State.byteProgrammed; dsimp only; repeat' split
  all_goals simp (maxDischargeDepth := 9) [h]

@[simp] theorem counterProgrammed (h : Keeps s t) (k : Counter) (n : Nat) (f : AdvanceFor) (p : Nat) (ok : Bool) :
    Keeps s (t.counterProgrammed k n f p ok) := by
  unfold State.counterProgrammed; dsimp only; repeat' split
  all_goals simp (maxDischargeDepth := 9) [h]

@[simp] theorem lockProgrammed (h : Keeps s t) (p : Nat) (ok : Bool) : Keeps s (t.lockProgrammed p ok) := by
  unfold State.lockProgrammed; dsimp only; repeat' split
  all_goals simp (maxDischargeDepth := 9) [h]

@[simp] theorem retireProgrammed (h : Keeps s t) (b : Nat) (ok : Bool) : Keeps s (t.retireProgrammed b ok) := by
  simp (maxDischargeDepth := 9) [State.retireProgrammed, h]

/-! ### The ends of the engine's jobs -/

@[simp] theorem manifestDigested (h : Keeps s t) (d : Bytes) : Keeps s (t.manifestDigested d) := by
  unfold State.manifestDigested; dsimp only; repeat' split
  all_goals simp (maxDischargeDepth := 9) [h]

@[simp] theorem anchorDigested (h : Keeps s t) (d : Bytes) : Keeps s (t.anchorDigested d) := by
  unfold State.anchorDigested; split <;> simp (maxDischargeDepth := 9) [h]

@[simp] theorem signatureChecked (h : Keeps s t) (v : Bool) : Keeps s (t.signatureChecked v) := by
  unfold State.signatureChecked; repeat' split
  all_goals simp (maxDischargeDepth := 9) [h]

@[simp] theorem chunkHashed (h : Keeps s t) (d : DigestState) (n : Nat) : Keeps s (t.chunkHashed d n) := by
  unfold State.chunkHashed; dsimp only; split <;> simp (maxDischargeDepth := 9) [h]

@[simp] theorem segmentDigested (h : Keeps s t) (d : Bytes) : Keeps s (t.segmentDigested d) := by
  unfold State.segmentDigested; dsimp only; repeat' split
  all_goals simp (maxDischargeDepth := 9) [h]

@[simp] theorem partExtended (h : Keeps s t) : Keeps s t.partExtended := by
  unfold State.partExtended; dsimp only; split <;> simp (maxDischargeDepth := 9) [h]

@[simp] theorem rootDigested (h : Keeps s t) (d : Bytes) : Keeps s (t.rootDigested d) := by
  unfold State.rootDigested; repeat' split
  all_goals simp (maxDischargeDepth := 9) [h]

@[simp] theorem quoteDigested (h : Keeps s t) (ch : Chan) (x d : Bytes) : Keeps s (t.quoteDigested ch x d) := by
  simp (maxDischargeDepth := 9) [State.quoteDigested, h]

@[simp] theorem signEnded (h : Keeps s t) (ch : Chan) (x : Bytes) : Keeps s (t.signEnded ch x) := by
  unfold State.signEnded; split <;> simp (maxDischargeDepth := 9) [h]

@[simp] theorem randomEnded (h : Keeps s t) (b : Bool) (x : Bytes) : Keeps s (t.randomEnded b x) := by
  unfold State.randomEnded; repeat' split
  all_goals simp (maxDischargeDepth := 9) [h]

@[simp] theorem keyGenerated (h : Keeps s t) (ch : Chan) (x : Bytes) (p : Option Bytes) : Keeps s (t.keyGenerated ch x p) := by
  unfold State.keyGenerated; split <;> simp (maxDischargeDepth := 9) [h]

@[simp] theorem keygenFault (h : Keeps s t) (ch : Chan) : Keeps s (t.keygenFault ch) := by
  simp (maxDischargeDepth := 9) [State.keygenFault, h]

@[simp] theorem seedGenerated (h : Keeps s t) (x : Bytes) : Keeps s (t.seedGenerated x) := by
  simp (maxDischargeDepth := 9) [State.seedGenerated, h]

@[simp] theorem attestGenerated (h : Keeps s t) (x : Bytes) : Keeps s (t.attestGenerated x) := by
  unfold State.attestGenerated; dsimp only; split <;> simp (maxDischargeDepth := 9) [h]

end Keeps
end Sys2Proof.Machine
/-! What the operations on the context table keep (O58, O59). -/
namespace Sys2Proof.Machine

/-! ### Tables whose keys come from another table's -/

/-- Two contexts hold a key of the same record under the same conditions. -/
def Ctx.sameKey (c c' : Ctx) : Prop :=
  c.slot = c'.slot ∧ c.gen = c'.gen ∧ c.owner = c'.owner ∧ c.domain = c'.domain ∧ c.needsOwner = c'.needsOwner

theorem Ctx.sameKey.trans {a b c : Ctx} (h : a.sameKey b) (h' : b.sameKey c) : a.sameKey c := by
  obtain ⟨h1, h2, h3, h4, h5⟩ := h
  obtain ⟨h1', h2', h3', h4', h5'⟩ := h'
  exact ⟨h1.trans h1', h2.trans h2', h3.trans h3', h4.trans h4', h5.trans h5'⟩

/-- Each entry LOADED in the second table holds the key that the entry in its place held in the first, and is pinned only if it
was. -/
structure TableFrom (t t' : CtxTable) : Prop where
  length : t'.entries.length = t.entries.length
  entry  : ∀ (i : Nat) (e' : CtxEntry) (c' : Ctx), t'.entries[i]? = some e' → e'.ctx = some c' →
    ∃ e c, t.entries[i]? = some e ∧ e.ctx = some c ∧ c'.sameKey c ∧ (c'.pinned = true → c.pinned = true)

theorem TableFrom.refl (t : CtxTable) : TableFrom t t :=
  ⟨rfl, fun _ e c he hc => ⟨e, c, he, hc, ⟨rfl, rfl, rfl, rfl, rfl⟩, id⟩⟩

theorem TableFrom.trans {t u v : CtxTable} (h : TableFrom t u) (h' : TableFrom u v) : TableFrom t v where
  length := h'.length.trans h.length
  entry i e c he hc := by
    obtain ⟨e', c', he', hc', hsame, hpin⟩ := h'.entry i e c he hc
    obtain ⟨e'', c'', he'', hc'', hsame', hpin'⟩ := h.entry i e' c' he' hc'
    exact ⟨e'', c'', he'', hc'', hsame.trans hsame', hpin' ∘ hpin⟩

/-- A count over a list of the same length, by its places. -/
theorem countP_le_of_places {α : Type} (p : α → Bool) : ∀ {l l' : List α}, l'.length = l.length →
    (∀ (i : Nat) (a : α), l'[i]? = some a → p a = true → ∃ b, l[i]? = some b ∧ p b = true) → l'.countP p ≤ l.countP p
  | [], [], _, _ => Nat.le_refl _
  | b :: l, a :: l', hlen, h => by
    have htail : l'.countP p ≤ l.countP p := countP_le_of_places p (by simpa using hlen) fun i x hx hp => h (i + 1) x hx hp
    rw [List.countP_cons, List.countP_cons]
    cases ha : p a with
    | false => simp; omega
    | true =>
      obtain ⟨x, hx, hpx⟩ := h 0 a rfl ha
      cases hx
      simp [hpx, htail]

theorem sound_iff {t : CtxTable} :
    t.sound = true ↔ t.entries.length = 12 ∧ t.entries.countP (fun e => e.ctx.any (·.pinned)) ≤ 4 := by
  unfold CtxTable.sound CtxTable.pinnedCount
  rw [Bool.and_eq_true, beq_iff_eq, List.countP_eq_length_filter]
  exact and_congr_right fun _ => decide_eq_true_iff

theorem TableFrom.pinned_le {t t' : CtxTable} (h : TableFrom t t') :
    t'.entries.countP (fun e => e.ctx.any (·.pinned)) ≤ t.entries.countP fun e => e.ctx.any (·.pinned) := by
  refine countP_le_of_places _ h.length fun i e he hp => ?_
  obtain ⟨c, hc, hpin⟩ := (Option.any_eq_true ..).1 hp
  obtain ⟨e', c', he', hc', -, hpin'⟩ := h.entry i e c he hc
  exact ⟨e', he', by rw [hc']; exact hpin' hpin⟩

theorem TableFrom.sound {t t' : CtxTable} (h : TableFrom t t') (hs : t.sound = true) : t'.sound = true := by
  rw [sound_iff] at *
  exact ⟨h.length.trans hs.1, Nat.le_trans h.pinned_le hs.2⟩

/-- A key in the second table is in the first. -/
theorem TableFrom.loaded {t t' : CtxTable} (h : TableFrom t t') {e' : CtxEntry} {c' : Ctx} (he : e' ∈ t'.entries)
    (hc : e'.ctx = some c') : ∃ e c, e ∈ t.entries ∧ e.ctx = some c ∧ c'.sameKey c := by
  obtain ⟨i, hi⟩ := List.mem_iff_getElem?.1 he
  obtain ⟨e, c, hin, hctx, hsame, -⟩ := h.entry i e' c' hi hc
  exact ⟨e, c, List.mem_of_getElem? hin, hctx, hsame⟩

/-! ### The operations -/

theorem freeAt_from (t : CtxTable) (i : Nat) : TableFrom t { t with entries := t.entries.modify i CtxEntry.free } where
  length := List.length_modify ..
  entry k e c he hc := by
    rw [List.getElem?_modify] at he
    obtain ⟨e', he', rfl⟩ := Option.map_eq_some_iff.1 he
    split at hc
    · unfold CtxEntry.free at hc
      split at hc
      · rename_i hnone
        rw [hnone] at hc
        cases hc
      · cases hc
    · exact ⟨e', c, he', hc, ⟨rfl, rfl, rfl, rfl, rfl⟩, id⟩

theorem setEntry_from {t : CtxTable} {i : Nat} {e : CtxEntry} {c c' : Ctx} (ep : Byte) (he : t.entries[i]? = some e)
    (hc : e.ctx = some c) (hsame : c'.sameKey c) (hpin : c'.pinned = true → c.pinned = true) :
    TableFrom t (t.setEntry i { epoch := ep, ctx := some c' }) where
  length := List.length_set ..
  entry k x y hx hy := by
    have hget := hx
    unfold CtxTable.setEntry setAt at hget
    rw [List.getElem?_set] at hget
    split at hget
    · rename_i hik
      subst hik
      split at hget
      · cases hget
        cases hy
        exact ⟨e, c, he, hc, hsame, hpin⟩
      · cases hget
    · exact ⟨x, y, hget, hy, ⟨rfl, rfl, rfl, rfl, rfl⟩, id⟩

theorem renumber_from (t : CtxTable) : TableFrom t t.renumber where
  length := List.length_map ..
  entry k e c he hc := by
    unfold CtxTable.renumber at he
    dsimp only at he
    rw [List.getElem?_map] at he
    obtain ⟨e', he', rfl⟩ := Option.map_eq_some_iff.1 he
    cases hctx : e'.ctx with
    | none =>
      rw [hctx] at hc
      rw [hctx] at hc
      cases hc
    | some c' =>
      rw [hctx] at hc
      cases hc
      exact ⟨e', c', he', hctx, ⟨rfl, rfl, rfl, rfl, rfl⟩, id⟩

theorem ready_from (t : CtxTable) : TableFrom t t.ready := by
  unfold CtxTable.ready
  split
  · exact renumber_from t
  · exact .refl t

theorem stamp_from (t : CtxTable) (i : Nat) : TableFrom t (t.stamp i) := by
  refine (ready_from t).trans ?_
  unfold CtxTable.stamp
  dsimp only
  split
  · exact .refl _
  · rename_i e he
    split
    · exact .refl _
    · rename_i c hc
      have hset := setEntry_from (c' := { c with stamp := t.ready.counter + 1 }) e.epoch he hc ⟨rfl, rfl, rfl, rfl, rfl⟩ id
      exact ⟨hset.length, hset.entry⟩

theorem good_entry {t : CtxTable} {ch : Chan} {h : Handle} {c : Ctx} (hgood : t.good ch h = some c) :
    ∃ e, t.entries[h.entry]? = some e ∧ e.ctx = some c := by
  unfold CtxTable.good at hgood
  split at hgood
  · cases hgood
  · rename_i e he
    split at hgood
    · cases hgood
    · rename_i c' hc
      split at hgood
      · cases hgood
        exact ⟨e, he, hc⟩
      · cases hgood

/-- A pin with fewer than four pinned entries leaves at most four. -/
theorem sound_pin {t : CtxTable} (h : Handle) (c : Ctx) (hroom : t.pinnedCount < 4) (hs : t.sound = true) :
    (t.setPinned h c true).sound = true := by
  rw [sound_iff] at *
  obtain ⟨hlen, -⟩ := hs
  have hcount : t.entries.countP (fun e => e.ctx.any (·.pinned)) < 4 := by
    rw [List.countP_eq_length_filter]
    exact hroom
  refine ⟨(List.length_set ..).trans hlen, ?_⟩
  unfold CtxTable.setPinned CtxTable.setEntry setAt
  by_cases hi : h.entry < t.entries.length
  · rw [List.countP_set hi]
    split <;> split <;> omega
  · rw [List.set_eq_of_length_le (by omega)]
    exact Nat.le_of_lt hcount

/-! ### A load (R123) -/

/-- The table in which a load sets its entry. -/
def loadBase (t : CtxTable) (i : Nat) : CtxTable := ({ t with entries := t.entries.modify i CtxEntry.free } : CtxTable).ready

theorem loadBase_from (t : CtxTable) (i : Nat) : TableFrom t (loadBase t i) := (freeAt_from t i).trans (ready_from _)

/-- The load sets one entry, not pinned, over a table from the one before. -/
theorem load_entries (t : CtxTable) (i : Nat) (ch : Chan) (slot : Nat) (gen : Word) (r : Rec) :
    ∃ ep c, (t.load i ch slot gen r).1.entries = (loadBase t i).entries.set i { epoch := ep, ctx := some c } ∧
      c.pinned = false ∧ c.slot = slot ∧ c.gen = gen ∧ c.owner = ch ∧ c.domain = r.domain ∧ c.needsOwner = r.needsOwner :=
  ⟨_, _, rfl, rfl, rfl, rfl, rfl, rfl, rfl⟩

theorem sound_load {t : CtxTable} (i : Nat) (ch : Chan) (slot : Nat) (gen : Word) (r : Rec) (hs : t.sound = true) :
    (t.load i ch slot gen r).1.sound = true := by
  obtain ⟨ep, c, hent, hpin, -⟩ := load_entries t i ch slot gen r
  have hbase := (loadBase_from t i).sound hs
  rw [sound_iff] at *
  obtain ⟨hlen, hcount⟩ := hbase
  rw [hent]
  refine ⟨(List.length_set ..).trans hlen, ?_⟩
  by_cases hi : i < (loadBase t i).entries.length
  · rw [List.countP_set hi]
    simp only [Option.any_some, hpin, Bool.false_eq_true, if_false]
    omega
  · rw [List.set_eq_of_length_le (by omega)]
    exact hcount

/-- What is LOADED after a load is the key loaded or was LOADED before. -/
theorem loaded_of_load {t : CtxTable} {i : Nat} {ch : Chan} {slot : Nat} {gen : Word} {r : Rec} {e : CtxEntry} {c : Ctx}
    (he : e ∈ (t.load i ch slot gen r).1.entries) (hc : e.ctx = some c) :
    (c.slot = slot ∧ c.gen = gen ∧ c.owner = ch ∧ c.domain = r.domain ∧ c.needsOwner = r.needsOwner) ∨
      ∃ e' c', e' ∈ t.entries ∧ e'.ctx = some c' ∧ c.sameKey c' := by
  obtain ⟨ep, x, hent, -, hx⟩ := load_entries t i ch slot gen r
  rw [hent] at he
  rcases List.mem_or_eq_of_mem_set he with hin | rfl
  · exact .inr ((loadBase_from t i).loaded hin hc)
  · cases hc
    exact .inl hx

namespace Keeps

variable {s t : State}

/-- A key valid in a state is valid under the same key's record. -/
theorem withTable (h : Keeps s t) {tab : CtxTable} (hfrom : TableFrom t.ctx tab) : Keeps s { t with ctx := tab } := by
  refine h.trans ⟨hfrom.sound, ?_, id⟩
  rintro ⟨hvalid, hshut, hdark⟩
  refine ⟨fun e c he hc => ?_, hshut, hdark⟩
  obtain ⟨e', c', hin, hctx, hslot, hgen, howner, hdom, hneeds⟩ := hfrom.loaded he hc
  rw [hslot, hgen, howner, hdom, hneeds]
  exact hvalid e' c' hin hctx

theorem freeAt (h : Keeps s t) (i : Nat) : Keeps s { t with ctx := { t.ctx with entries := t.ctx.entries.modify i CtxEntry.free } } :=
  h.withTable (freeAt_from t.ctx i)

theorem pin (h : Keeps s t) {ch : Chan} {x : Handle} {c : Ctx} (hgood : t.ctx.good ch x = some c) (hroom : t.ctx.pinnedCount < 4) :
    Keeps s { t with ctx := t.ctx.setPinned x c true } := by
  obtain ⟨e, he, hc⟩ := good_entry hgood
  refine h.trans ⟨sound_pin x c hroom, ?_, id⟩
  rintro ⟨hvalid, hshut, hdark⟩
  refine ⟨fun e' c' he' hc' => ?_, hshut, hdark⟩
  rcases List.mem_or_eq_of_mem_set he' with hin | rfl
  · exact hvalid e' c' hin hc'
  · cases hc'
    exact hvalid e c (List.mem_of_getElem? he) hc

theorem unpin (h : Keeps s t) {ch : Chan} {x : Handle} {c : Ctx} (hgood : t.ctx.good ch x = some c) :
    Keeps s { t with ctx := t.ctx.setPinned x c false } := by
  obtain ⟨e, he, hc⟩ := good_entry hgood
  exact h.withTable (setEntry_from x.epoch he hc ⟨rfl, rfl, rfl, rfl, rfl⟩ (by intro h; cases h))

@[simp] theorem noteUse (h : Keeps s t) (x : Handle) (c : Ctx) : Keeps s (t.noteUse x c) := by
  have huse : Keeps s (if c.needsOwner then t.useGrant else t) := by
    split
    · exact h.useGrant
    · exact h
  exact huse.withTable (stamp_from _ _)

/-- A load of a key that is valid. -/
theorem loadContext (h : Keeps s t) {ch : Chan} {slot : Nat} {r : Rec} (hgranted : t.granted ch r.domain = true)
    (howner : r.needsOwner = true → t.owner.grant.isSome = true) : Keeps s (t.loadContext ch slot (t.store.gen slot) r) := by
  unfold State.loadContext
  split
  · exact h.refuse _ _
  · rename_i i evicted _
    have hload : Keeps t { t with ctx := (t.ctx.load i ch slot (t.store.gen slot) r).1 } := by
      refine ⟨sound_load i ch slot _ r, ?_, id⟩
      rintro ⟨hvalid, hshut, hdark⟩
      refine ⟨fun e c he hc => ?_, hshut, hdark⟩
      rcases loaded_of_load he hc with ⟨hslot, hgen, hown, hdom, hneeds⟩ | ⟨e', c', hin, hctx, hslot, hgen, hown, hdom, hneeds⟩
      · rw [hslot, hgen, hown, hdom, hneeds]
        exact ⟨rfl, hgranted, howner⟩
      · rw [hslot, hgen, hown, hdom, hneeds]
        exact hvalid e' c' hin hctx
    exact (h.trans hload).reply ch .ok _

/-- Narrowing channel A's grant set frees the entries of the domains that it takes out (R133). -/
theorem narrow (h : Keeps s t) (remove : DomSet) : Keeps s (t.narrow remove) := by
  refine h.trans ⟨sound_invalidate _, ?_, id⟩
  rintro ⟨hvalid, hshut, hdark⟩
  refine ⟨keysValid_invalidate _ rfl fun e c he hc hkept => ?_, fun hclosed => ?_, fun hpower => ?_⟩
  · obtain ⟨hgen, hgranted, howner⟩ := hvalid e c he hc
    refine ⟨hgen, ?_, howner⟩
    cases hown : c.owner with
    | S => rw [hown] at hgranted; exact hgranted
    | A =>
      rw [hown] at hgranted
      cases hdom : c.domain with
      | none => rw [hdom] at hgranted; cases hgranted
      | some d =>
        rw [hdom] at hgranted
        have hbit : t.chA.grants.getLsbD d.bit = true := hgranted
        have hkeep : remove.getLsbD d.bit = false := by simpa [hown, hdom, hbit] using hkept
        have hlt : d.bit < 6 := BitVec.lt_of_getLsbD hbit
        show (t.chA.grants &&& ~~~ remove).getLsbD d.bit = true
        rw [BitVec.getLsbD_and, BitVec.getLsbD_not, hbit, hkeep, decide_eq_true hlt]
        rfl
  · show t.chA.grants &&& ~~~ remove = 0#6
    rw [hshut hclosed, BitVec.zero_and]
  · obtain ⟨hA, hS⟩ := hdark hpower
    refine ⟨?_, hS⟩
    show t.chA.grants &&& ~~~ remove = 0#6
    rw [hA, BitVec.zero_and]

/-- A new generation of a slot frees the entries of the slot (R130). -/
theorem newGen (h : Keeps s t) (f : Store → Store) (slot : Nat)
    (hother : ∀ n, n ≠ slot → (f t.store).gen n = t.store.gen n) : Keeps s ((t.mapStore f).invalidate (·.slot == slot)) := by
  refine h.trans ⟨sound_invalidate _, ?_, id⟩
  rintro ⟨hvalid, hshut, hdark⟩
  refine ⟨keysValid_invalidate _ rfl fun e c he hc hkept => ?_, hshut, hdark⟩
  obtain ⟨hgen, hgranted, howner⟩ := hvalid e c he hc
  exact ⟨hgen.trans (hother c.slot (by simpa using hkept)).symm, hgranted, howner⟩

end Keeps
end Sys2Proof.Machine
/-! What the requests' own steps, the ends of array operations and settling keep (O58 to O60). -/
namespace Sys2Proof.Machine
namespace Keeps

variable {s t : State}

/-! ### Requests -/

@[simp] theorem emptyBody (h : Keeps s t) (ch : Chan) (b : Bytes) {u : State} (hu : Keeps s u) : Keeps s (t.emptyBody ch b u) := by
  unfold State.emptyBody; split
  · exact hu
  · exact h.refuse _ _

theorem setFlag_state (c : Channel) (i : Nat) (v : Bool) : (c.setFlag i v).state = c.state := by
  unfold Channel.setFlag
  split <;> rfl

@[simp] theorem takeEvent (h : Keeps s t) (ch : Chan) : Keeps s (t.takeEvent ch) := by
  unfold State.takeEvent; dsimp only; split
  · exact h.reply _ _ _
  · exact reply (h.setChan ch _ (by simp) (by rintro rfl hc; rwa [setFlag_state] at hc)) _ _ _

@[simp] theorem wrongLifecycle (h : Keeps s t) : Keeps s t.wrongLifecycle := by
  simp (maxDischargeDepth := 9) [State.wrongLifecycle, h]

@[simp] theorem applyDecay (h : Keeps s t) (n : Nat) (p : Params) : Keeps s (t.applyDecay n p) := by
  simp (maxDischargeDepth := 9) [State.applyDecay, h]

@[simp] theorem attempt (h : Keeps s t) (n : Nat) (x : Bytes) (r : Rec) : Keeps s (t.attempt n x r) := by
  unfold State.attempt; dsimp only; split <;> simp (maxDischargeDepth := 9) [h]

@[simp] theorem verifyOwner (h : Keeps s t) (n : Nat) (x : Bytes) : Keeps s (t.verifyOwner n x) := by
  unfold State.verifyOwner; repeat' split
  all_goals simp (maxDischargeDepth := 9) [h]

@[simp] theorem setVerifier (h : Keeps s t) (a : SetVerifierArgs) : Keeps s (t.setVerifier a) := by
  have hjudged := h.judgeVerifier
  unfold State.setVerifier
  generalize t.judgeVerifier = x at hjudged
  obtain ⟨b, u⟩ := x
  repeat' split
  all_goals simp_all

@[simp] theorem judgeOpen (h : Keeps s t) (ch : Chan) (r : Rec) : Keeps s (t.judgeOpen ch r).2 := by
  unfold State.judgeOpen
  repeat' split
  all_goals simp [h]

@[simp] theorem fileUse (h : Keeps s t) (ch : Chan) (c : Claim) : Keeps s (t.fileUse ch c) := by
  simp (maxDischargeDepth := 9) [State.fileUse, h]

@[simp] theorem extend (h : Keeps s t) (ch : Chan) (a : ExtendArgs) : Keeps s (t.extend ch a) := by
  unfold State.extend; repeat' split
  all_goals simp (maxDischargeDepth := 9) [h]

@[simp] theorem startAdmission (h : Keeps s t) (b : Bank) : Keeps s (t.startAdmission b) := by
  simp (maxDischargeDepth := 9) [State.startAdmission, h]

@[simp] theorem finishAbort (h : Keeps s t) (a : AdmState) : Keeps s (t.finishAbort a) := by
  simp (maxDischargeDepth := 9) [State.finishAbort, h]

@[simp] theorem alreadyConfirmed (h : Keeps s t) (b : Bank) : Keeps s (t.alreadyConfirmed b) := by
  simp (maxDischargeDepth := 9) [State.alreadyConfirmed, h]

@[simp] theorem startConfirm (h : Keeps s t) (b : Bank) : Keeps s (t.startConfirm b) := by
  simp (maxDischargeDepth := 9) [State.startConfirm, h]

/-! ### Settling -/

@[simp] theorem fileChange (h : Keeps s t) : Keeps s t.fileChange := by
  unfold State.fileChange; dsimp only; repeat' split
  all_goals simp (maxDischargeDepth := 9) [h]

theorem nextChange {u : State} (h : Keeps s t) (hu : t.nextChange = some u) : Keeps s u := by
  unfold State.nextChange at hu
  split at hu
  · cases hu
    simp (maxDischargeDepth := 9) [h]
  · cases hu

theorem fileWaiter {u : State} (h : Keeps s t) (hu : t.fileWaiter = some u) : Keeps s u := by
  unfold State.fileWaiter at hu
  repeat' split at hu
  all_goals cases hu
  · exact (h.mapStore _ rfl).mapStore _ rfl
  · exact (h.mapStore _ rfl).fileChange

theorem storeTurn {u : State} (h : Keeps s t) (hu : t.storeTurn = some u) : Keeps s u := by
  unfold State.storeTurn at hu
  split at hu
  · cases hu
    exact h.seekPage _
  · cases hu
    exact h.takeJob _ _
  · cases hu

theorem markTurn {u : State} (h : Keeps s t) (hu : t.markTurn = some u) : Keeps s u := by
  unfold State.markTurn at hu
  repeat' split at hu
  · cases hu
  · cases hu
  · cases hu
    exact (h.mapStore _ rfl).fileOta _

theorem otaTurn {u : State} (h : Keeps s t) (hu : t.otaTurn = some u) : Keeps s u := by
  unfold State.otaTurn at hu
  split at hu
  · cases hu
    exact (h.mapOta _).takeOta _
  · cases hu

theorem checkTurn {u : State} (h : Keeps s t) (hu : t.checkTurn = some u) : Keeps s u := by
  unfold State.checkTurn at hu
  split at hu
  · cases hu
    exact (h.mapChecker _).startRead _
  · cases hu

theorem compactTurn {u : State} (h : Keeps s t) (hu : t.compactTurn = some u) : Keeps s u := by
  unfold State.compactTurn at hu
  split at hu
  · cases hu
    exact h.startCompaction _ _
  · cases hu

theorem gather (h : Keeps s t) (ch : Chan) (c : Claim) : Keeps s (t.gather ch c).2 := by
  unfold State.gather
  dsimp only
  repeat' split
  all_goals simp (maxDischargeDepth := 9) [h]

/-- An EXTEND job is gathered with its lane's value. -/
theorem gather_extend (t : State) (ch : Chan) (c : Claim) (lane : Nat) (v d l : Bytes) (src : Source)
    (hjob : (t.gather ch c).1 = some (.extend lane v d l src)) : v = (t.gather ch c).2.meas.lane lane := by
  rw [show (t.gather ch c).2.meas = t.meas from congrArg Fixed.meas (State.gather_fixed t ch c)]
  cases c with
  | extendPart =>
    cases hjob
    rfl
  | extendRecovery =>
    cases hjob
    rfl
  | extendReq lane' d' l' =>
    unfold State.gather at hjob
    dsimp only at hjob
    split at hjob
    · cases hjob
    · cases hjob
      rfl
  | signCtx | deriveCtx | releaseCtx =>
    unfold State.gather at hjob
    dsimp only at hjob
    split at hjob <;> cases hjob
  | _ => cases hjob

/-- A job begins; an EXTEND job with its lane's value. -/
theorem startJob (h : Keeps s t) (f : Engine → Engine) {r : Running} (hr : (f t.engine).running = some r)
    (hjob : ∀ lane v d l src, r.job = .extend lane v d l src → v = t.meas.lane lane) : Keeps s (t.mapEngine f) := by
  refine h.trans ⟨id, id, ?_⟩
  rintro ⟨hlen, hreplay, -⟩
  refine ⟨hlen, hreplay, fun r' lane v d l src hrun _ hj _ => ?_⟩
  obtain rfl : r = r' := Option.some.inj (hr.symm.trans hrun)
  exact hjob lane v d l src hj

theorem grantEngine {u : State} (h : Keeps s t) (hu : t.grantEngine = some u) : Keeps s u := by
  unfold State.grantEngine at hu
  split at hu
  · cases hu
  · split at hu
    · cases hu
    · rename_i who _
      split at hu
      · cases hu
      · rename_i p _
        have hclaim : Keeps s (t.mapEngine (·.setClaim who none)) := h.mapEngine _ (setClaim_running _ _ _)
        have hgather := hclaim.gather who.chan p.claim
        have hextend := gather_extend (t.mapEngine (·.setClaim who none)) who.chan p.claim
        dsimp only at hu
        generalize (t.mapEngine (·.setClaim who none)).gather who.chan p.claim = x at hu hgather hextend
        obtain ⟨j, v⟩ := x
        cases j with
        | none =>
          cases hu
          exact hgather
        | some j =>
          cases hu
          exact hgather.startJob _ rfl fun lane v d l src hj => hextend lane v d l src (congrArg some hj)

/-- What the blocks start of their own accord keeps the invariants. -/
@[simp] theorem settle (h : Keeps s t) : Keeps s t.settle := by
  refine State.settle_keeps (Keeps s ·) (fun u v hu hv => ?_) t h
  rcases State.settle1_cases hv with e | e | e | e | e | e | e | e
  · exact hu.nextChange e
  · exact hu.fileWaiter e
  · exact hu.storeTurn e
  · exact hu.markTurn e
  · exact hu.otaTurn e
  · exact hu.checkTurn e
  · exact hu.grantEngine e
  · exact hu.compactTurn e

end Keeps
end Sys2Proof.Machine
/-! What the ends of array operations and of the engine's jobs keep (O58 to O60). -/
namespace Sys2Proof.Machine
namespace Keeps

variable {s t : State}

/-! ### The store's array operations -/

/-- A commit's record of its page and its generation changes no other slot's generation. -/
theorem gen_insert_other {st : Store} {l : List SlotEntry} {x : SlotEntry} {n : Nat} (h : n ≠ x.slot) :
    ({ st with map := insertEntry x l } : Store).gen n = mapGen l n := by
  rw [Store.gen_eq]
  exact (mapGen_insert x l n).trans (if_neg (Ne.symm h))

theorem commitJob (h : Keeps s t) (j : WriteJob) (page : Nat) : Keeps s (t.commitJob j page) := by
  unfold State.commitJob
  refine endJob ?_ _
  have hgen := h.newGen
    (fun st => { (st.markUsed page).fillIfFull (blockOf page) with
      map := insertEntry { slot := j.slot, page := page, gen := t.store.gen j.slot + 1#32 } st.map })
    j.slot fun n hn => gen_insert_other hn
  split
  · exact hgen.verifierGone _
  · exact hgen

theorem programDone (h : Keeps s t) (page : Nat) (bytes : Bytes) (bad : Option Bytes) : Keeps s (t.programDone page bytes bad) := by
  unfold State.programDone
  split
  · exact h
  · dsimp only
    split
    · exact (h.mapStore _ rfl).commitJob _ _
    · exact (h.mapStore _ rfl).mapStore _ (by simp)

theorem voidDone (h : Keeps s t) (page : Nat) (bad : Option Word) : Keeps s (t.voidDone page bad) := by
  unfold State.voidDone
  split
  · exact h
  · have hvoid := h.mapStore (fun st => { st with mem := voidGen st.mem page bad, op := none }.fillIfFull (blockOf page)) (by simp)
    dsimp only
    split
    · exact hvoid.endJob _
    · exact hvoid

theorem copyVoidDone (h : Keeps s t) (page : Nat) (bad : Option Word) : Keeps s (t.copyVoidDone page bad) :=
  (h.mapStore _ rfl).copyNext

theorem copyDone (h : Keeps s t) (src dst : Nat) (bytes : Bytes) (bad : Option Bytes) : Keeps s (t.copyDone src dst bytes bad) := by
  have hread := h.mapStore
    (fun st => { st.markUsed dst with mem := Mem.setPage st.mem dst (programmed bytes bad), op := none }) (by simp)
  unfold State.copyDone
  dsimp only
  split
  · exact (hread.mapStore_gens (fun st => { st with map := movePage src dst st.map }) fun n => mapGen_move src dst _ n).copyNext
  · exact hread.mapStore _ rfl

theorem eraseDone (h : Keeps s t) (b : Nat) (left : List (Nat × Byte)) : Keeps s (t.eraseDone b left) := by
  have hread := h.mapStore (fun st => { st with mem := Mem.eraseBlock st.mem b left, op := none, comp := none }) rfl
  unfold State.eraseDone
  dsimp only
  split
  · exact hread.mapStore _ (by simp)
  · exact hread.retireBlock b

/-! ### The owner unit and the context block -/

theorem verifyStretched (h : Keeps s t) (n : Nat) (r : Rec) (v : Bytes) : Keeps s (t.verifyStretched n r v) := by
  unfold State.verifyStretched
  dsimp only
  split
  · exact (((h.setHold _).withOwner _ fun _ => rfl).setWork _ _).fileJob _
  · exact h.endGrant.reply _ _ _

theorem stretchEnded (h : Keeps s t) (v : Bytes) : Keeps s (t.stretchEnded v) := by
  unfold State.stretchEnded
  split
  · exact h.verifyStretched _ _ _
  · exact (h.setWork _ _).fileJob _
  · exact h

theorem useGrant_isSome (t : State) : t.useGrant.owner.grant.isSome = t.owner.grant.isSome := by
  unfold State.useGrant
  split <;> simp_all

theorem compositeDigested (h : Keeps s t) (ch : Chan) (slot : Nat) (gen : Word) (r : Rec) (cleared : Bool) (d : Bytes) :
    Keeps s (t.compositeDigested ch slot gen r cleared d) := by
  unfold State.compositeDigested
  split
  · exact h.refuse _ _
  split
  · exact h.reply _ _ _
  split
  · exact h.refuse _ _
  split
  · exact h.refuse _ _
  rename_i hgen hgranted howner
  have hgen' : gen = t.store.gen slot := (Classical.not_not.1 hgen).symm
  have hgranted' : t.granted ch r.domain = true := by simpa using hgranted
  have howner' : r.needsOwner = true → t.owner.grant.isSome = true := fun hn => by
    simpa [hn, Option.isSome_iff_ne_none] using howner
  subst hgen'
  by_cases hneeds : r.needsOwner = true
  · simp only [if_pos hneeds]
    split
    · exact h.useGrant.refuse _ _
    · have hgens : t.useGrant.store.gen slot = t.store.gen slot :=
        congrArg (fun f : Fixed => mapGen f.map slot) (State.useGrant_fixed t)
      rw [← hgens]
      refine h.useGrant.loadContext ?_ fun _ => (useGrant_isSome t).trans (howner' hneeds)
      rw [granted_congr (congrArg Fixed.grantsS (State.useGrant_fixed t)) (congrArg Fixed.grantsA (State.useGrant_fixed t))]
      exact hgranted'
  · simp only [if_neg hneeds]
    split
    · exact h.refuse _ _
    · exact h.loadContext hgranted' howner'

theorem digestEnded (h : Keeps s t) (who : Claimant) (p : DigestFor) (d : Bytes) : Keeps s (t.digestEnded who p d) := by
  cases p with
  | manifest => exact h.manifestDigested d
  | anchor => exact h.anchorDigested d
  | segment => exact h.segmentDigested d
  | root => exact h.rootDigested d
  | composite slot gen r cleared => exact h.compositeDigested _ _ _ _ _ _
  | quote stmt => exact h.quoteDigested _ _ _

theorem openKey (h : Keeps s t) (ch : Chan) (slot : Nat) : Keeps s (t.openKey ch slot) := by
  unfold State.openKey
  split
  · exact h.refuse _ _
  rename_i r _
  split
  · exact h.refuse _ _
  split
  · exact h.refuse _ _
  rename_i hgranted
  have hgranted' : t.granted ch r.domain = true := by simpa using hgranted
  have hjudged := h.judgeOpen ch r
  have hfixed := State.judgeOpen_fixed t ch r
  have howner : (t.judgeOpen ch r).1 = true → r.needsOwner = true → (t.judgeOpen ch r).2.owner.grant.isSome = true := by
    unfold State.judgeOpen
    intro hok hneeds
    cases ch with
    | S => simp [hneeds] at hok
    | A =>
      cases hactive : t.owner.grant.isSome with
      | false => simp [hneeds, hactive] at hok
      | true => simp [hneeds, hactive, useGrant_isSome]
  generalize t.judgeOpen ch r = x at hjudged hfixed howner
  obtain ⟨ok, u⟩ := x
  cases ok with
  | false => exact hjudged.refuse _ _
  | true =>
    dsimp only
    split
    · refine hjudged.loadContext ?_ (howner rfl)
      rw [granted_congr (congrArg Fixed.grantsS hfixed) (congrArg Fixed.grantsA hfixed)]
      exact hgranted'
    · exact (hjudged.setWork _ _).fileClaim _ _

/-! ### The engine's jobs -/

/-- The engine is free. -/
theorem endRun (h : Keeps s t) : Keeps s (t.mapEngine fun e => { e with running := none }) :=
  h.alike ⟨rfl, rfl, rfl, id, rfl, id, fun _ => rfl, rfl, rfl, extending_of fun r hrun => by cases hrun⟩

/-- A job's end keeps what its result's block keeps, from the state with the engine free. -/
theorem jobEnd {r : Running} {f : State → State}
    (hf : r.dropped = false → Keeps s (f (s.mapEngine fun e => { e with running := none }))) : (s.jobEnd r f).all (Keeps s) := by
  show Keeps s _
  cases hd : r.dropped with
  | true => exact (refl s).endRun.settle
  | false => exact (hf hd).settle

/-- The lanes after one of them is set. -/
theorem lane_setAt {m : Meas} {lane n : Nat} {v : Bytes} (hlen : lane < m.lanes.length) :
    (setAt m.lanes lane v).getD n zeros32 = if lane = n then v else m.lane n := by
  unfold setAt Meas.lane
  rw [List.getD_eq_getElem?_getD, List.getD_eq_getElem?_getD, List.getElem?_set]
  by_cases h : lane = n
  · subst h
    simp [hlen]
  · simp [h]

theorem replayed_append (n : Nat) (log : List LogEntry) (e : LogEntry) :
    replayed n (log ++ [e]) = if e.lane = n then digestOf (replayed n log ++ e.digest) else replayed n log := by
  simp [replayed, List.foldl_append]

/-- The extension that a running EXTEND job completes is what the log replays to (R138). -/
theorem completeExtension {r : Running} {lane : Nat} {v d l : Bytes} {src : Source} (hrun : s.engine.running = some r)
    (hd : r.dropped = false) (hjob : r.job = .extend lane v d l src) :
    Keeps s ((s.mapEngine fun e => { e with running := none }).completeExtension lane (extendOf v d) d l src) := by
  refine ⟨sound_invalidate _, ?_, ?_⟩
  · rintro ⟨hvalid, hshut, hdark⟩
    exact ⟨keysValid_invalidate _ rfl fun e c he hc _ => hvalid e c he hc, hshut, hdark⟩
  · rintro ⟨hlen, hreplay, hval⟩
    refine ⟨(List.length_set ..).trans hlen, fun n hn => ?_, fun r' _ _ _ _ _ hrun' => by cases hrun'⟩
    show (setAt s.meas.lanes lane (extendOf v d)).getD n zeros32 =
      replayed n (s.meas.log ++ [{ lane := lane, source := src, label := l, digest := d }])
    rw [replayed_append]
    by_cases hlane : lane < 8
    · rw [lane_setAt (by omega)]
      by_cases heq : lane = n
      · subst heq
        rw [if_pos rfl, if_pos rfl, ← hreplay lane hlane, hval r lane v d l src hrun hd hjob hlane]
        rfl
      · rw [if_neg heq, if_neg heq, hreplay n hn]
    · have hne : lane ≠ n := by omega
      rw [if_neg hne, ← hreplay n hn]
      unfold setAt Meas.lane
      rw [List.set_eq_of_length_le (by omega)]

theorem withBootOpen (h : Keeps s t) (b : Bool) : Keeps s { t with meas := { t.meas with bootOpen := b } } :=
  h.alike ⟨rfl, rfl, rfl, id, rfl, id, fun _ => rfl, rfl, rfl, fun _ _ => id⟩

theorem extendEnded {r : Running} {lane : Nat} {v d l : Bytes} {src : Source} (ch : Chan) (hrun : s.engine.running = some r)
    (hd : r.dropped = false) (hjob : r.job = .extend lane v d l src) :
    Keeps s ((s.mapEngine fun e => { e with running := none }).extendEnded ch lane v d l src) := by
  have hext := completeExtension hrun hd hjob
  unfold State.extendEnded
  cases src with
  | part =>
    refine partExtended ?_
    split
    · exact hext.withBootOpen false
    · exact hext
  | recovery =>
    refine mapBoot (setWork ?_ .S .recoveryRelease) _
    split
    · exact hext.withBootOpen false
    · exact hext
  | supervisor | application =>
    refine reply ?_ _ _ _
    split
    · exact hext.withBootOpen false
    · exact hext

end Keeps
end Sys2Proof.Machine
/-! What every command keeps of the context table, the keys and the lanes (O58 to O60). -/
namespace Sys2Proof.Machine

theorem Result.all_of_next {P : State → Prop} {t : State} (h : P t) : Result.all (.next t) P := h

theorem serve_keeps {s : State} {ch : Chan} {code : Byte} {f : Bytes → State} (h : ∀ body, Keeps s (f body)) :
    (s.serve ch code f).all (Keeps s) := serve_all s ch code f (.refl s) fun body _ => h body

theorem serveWork_keeps {s : State} {ch : Chan} {code : Byte} {f : Bytes → State} (h : ∀ body, Keeps s (f body)) :
    (s.serveWork ch code f).all (Keeps s) := serve_keeps fun body => (h body).settle

namespace Keeps

variable {s t : State}

/-! ### The link -/

theorem setLine (h : Keeps s t) (l : Line) : Keeps s (t.setLine l) := h.withLink _
theorem setAck (h : Keeps s t) (a : Bool) : Keeps s (t.setAck a) := h.withLink _
theorem setOut (h : Keeps s t) (b : Bytes) : Keeps s (t.setOut b) := h.withLink _

/-- A channel's record replaced by one that is not CLOSED. -/
theorem setOpen (h : Keeps s t) (ch : Chan) (c : Channel) (hg : c.grants = (t.chan ch).grants) (hs : c.state ≠ .closed) :
    Keeps s (t.setChan ch c) := h.setChan ch c hg fun _ hc => absurd hc hs

theorem close_state (c : Channel) (lc : Lifecycle) (ch : Chan) : (c.close lc ch).state ≠ .closed := by
  unfold Channel.close; dsimp only
  repeat' split
  all_goals simp [Channel.answer]

theorem closeWrite (h : Keeps s t) : Keeps s t.closeWrite := by
  unfold State.closeWrite
  split
  · split
    · exact h.setOpen _ _ (Channel.close_grants _ _ _) (close_state _ _ _)
    · exact h
  all_goals exact h

end Keeps

theorem execAddressByte_keeps (b : Byte) (s : State) : (execAddressByte b s).all (Keeps s) := by
  unfold execAddressByte
  split
  · exact Result.all_of_next (.refl s)
  · exact Result.all_of_next (((Keeps.refl s).closeWrite.setLine _).setAck _)

theorem takeData_state (c : Channel) (b : Byte) : (c.takeData b).1.state = c.state := by
  unfold Channel.takeData; dsimp only
  repeat' split
  all_goals rfl

theorem execWriteDataByte_keeps (b : Byte) (s : State) : (execWriteDataByte b s).all (Keeps s) := by
  unfold execWriteDataByte
  split
  · rename_i ch n _
    dsimp only
    split
    · rename_i hrec
      refine Result.all_of_next (Keeps.setAck (Keeps.setLine ((Keeps.refl s).setOpen ch _ (by simp) ?_) _) _)
      rw [takeData_state, hrec]
      exact fun h => by cases h
    · exact Result.all_of_next ((Keeps.refl s).setAck _)
  · exact Result.all_of_next ((Keeps.refl s).setAck _)
  all_goals exact Result.all_of_next (.refl s)

theorem execFrameClose_keeps (s : State) : (execFrameClose s).all (Keeps s) := by
  unfold execFrameClose
  split
  · exact Result.all_of_next (.refl s)
  · exact Result.all_of_next ((Keeps.refl s).closeWrite.setLine _)

theorem execReadFrame_keeps (n : Nat) (ends : Bool) (s : State) : (execReadFrame n ends s).all (Keeps s) := by
  have hout (b : Bytes) : Keeps s (s.setOut b) := (Keeps.refl s).setOut b
  unfold execReadFrame
  split
  · split
    · exact Result.all_of_next (.refl s)
    · dsimp only
      split
      · refine Result.all_of_next (Keeps.setLine ((hout _).setOpen _ _ ?_ ?_) _)
        · rfl
        · exact fun h => by cases h
      · exact Result.all_of_next ((hout _).setLine _)
  · exact Result.all_of_next ((hout _).setLine _)
  · exact Result.all_of_next ((hout _).setLine _)
  all_goals exact Result.all_of_next (.refl s)

theorem execStuckLineTimerExpiry_keeps (s : State) : (execStuckLineTimerExpiry s).all (Keeps s) := by
  unfold execStuckLineTimerExpiry
  split
  · rename_i ch n _
    refine Result.all_of_next (Keeps.setLine ?_ _)
    split
    · exact (Keeps.refl s).setOpen _ _ (Channel.answer_grants _ _) fun h => by cases h
    · exact .refl s
  all_goals exact Result.all_of_next (by simp [Keeps.setLine])

/-! ### Requests -/

theorem withHandle_keeps {s : State} {ch : Chan} {body : Bytes} {f : Handle → Ctx → State}
    (hf : ∀ h c, s.ctx.good ch h = some c → Keeps s (f h c)) : Keeps s (s.withHandle ch body f) := by
  unfold State.withHandle
  split
  · exact (Keeps.refl s).refuse _ _
  split
  · exact (Keeps.refl s).refuse _ _
  split
  · exact (Keeps.refl s).refuse _ _
  · exact hf _ _ ‹_›

theorem execWriteSlot_keeps (ch : Chan) (s : State) : (execWriteSlot ch s).all (Keeps s) :=
  serveWork_keeps fun body => by
    cases parseSlotArgs body with
    | none => exact (Keeps.refl s).refuse _ _
    | some a =>
      dsimp only
      split
      · have hjudged := (Keeps.refl s).judgeWrite ch a.r.domain
        generalize s.judgeWrite ch a.r.domain = x at hjudged
        obtain ⟨ok, u⟩ := x
        cases ok with
        | true => exact (hjudged.setWork _ _).fileJob _
        | false => exact hjudged.refuse _ _
      · exact (Keeps.refl s).refuse _ _

theorem execGenerateKey_keeps (ch : Chan) (s : State) : (execGenerateKey ch s).all (Keeps s) :=
  serveWork_keeps fun body => by
    cases parseSlotArgs body with
    | none => exact (Keeps.refl s).refuse _ _
    | some a =>
      dsimp only
      split
      · have hjudged := (Keeps.refl s).judgeWrite ch a.r.domain
        generalize s.judgeWrite ch a.r.domain = x at hjudged
        obtain ⟨ok, u⟩ := x
        cases ok with
        | true => exact (hjudged.setWork _ _).fileClaim _ _
        | false => exact hjudged.refuse _ _
      · exact (Keeps.refl s).refuse _ _

theorem execDeleteSlot_keeps (ch : Chan) (s : State) : (execDeleteSlot ch s).all (Keeps s) :=
  serveWork_keeps fun body => by
    cases parseDeleteSlot body with
    | none => exact (Keeps.refl s).refuse _ _
    | some a =>
      obtain ⟨slot, expected⟩ := a
      dsimp only
      split
      · cases s.store.keptRec slot with
        | none => exact (Keeps.refl s).reply _ _ _
        | some r =>
          have hjudged := (Keeps.refl s).judgeWrite ch (if r.kind = .verifier then some .owner else r.domain)
          dsimp only
          generalize s.judgeWrite ch (if r.kind = .verifier then some .owner else r.domain) = x at hjudged
          obtain ⟨ok, u⟩ := x
          cases ok with
          | true => exact (hjudged.setWork _ _).fileJob _
          | false => exact hjudged.refuse _ _
      · exact (Keeps.refl s).refuse _ _

theorem execOpenKey_keeps (ch : Chan) (s : State) : (execOpenKey ch s).all (Keeps s) :=
  serveWork_keeps fun _ => by
    repeat' split
    · exact (Keeps.refl s).refuse _ _
    · exact (Keeps.refl s).openKey _ _
    · exact (Keeps.refl s).refuse _ _

theorem execCloseKey_keeps (ch : Chan) (s : State) : (execCloseKey ch s).all (Keeps s) :=
  serve_keeps fun _ => withHandle_keeps fun h _ _ => ((Keeps.refl s).freeAt h.entry).reply _ _ _

theorem execPinKey_keeps (ch : Chan) (s : State) : (execPinKey ch s).all (Keeps s) :=
  serve_keeps fun _ => withHandle_keeps fun h c hgood => by
    split
    · exact (Keeps.refl s).reply _ _ _
    split
    · exact (Keeps.refl s).refuse _ _
    · rename_i hroom
      exact ((Keeps.refl s).pin hgood (Nat.lt_of_not_le hroom)).reply _ _ _

theorem execUnpinKey_keeps (ch : Chan) (s : State) : (execUnpinKey ch s).all (Keeps s) :=
  serve_keeps fun _ => withHandle_keeps fun _ _ hgood => ((Keeps.refl s).unpin hgood).reply _ _ _

theorem execRestrictGrants_keeps (s : State) : (execRestrictGrants s).all (Keeps s) :=
  serve_keeps fun _ => by
    repeat' split
    · exact (Keeps.refl s).refuse _ _
    · exact ((Keeps.refl s).narrow _).reply _ _ _
    · exact (Keeps.refl s).refuse _ _

theorem Keeps.withGuard {s t : State} (h : Keeps s t) (g : Guard) : Keeps s { t with guard := g } :=
  h.alike ⟨rfl, rfl, rfl, id, rfl, id, fun _ => rfl, rfl, rfl, fun _ _ => id⟩

theorem Keeps.withRcv {s t : State} (h : Keeps s t) (b : Bool) : Keeps s { t with rcv := b } :=
  h.alike ⟨rfl, rfl, rfl, id, rfl, id, fun _ => rfl, rfl, rfl, fun _ _ => id⟩

theorem execSetGuard_keeps (s : State) : (execSetGuard s).all (Keeps s) :=
  serve_keeps fun _ => by
    repeat' split
    · exact (Keeps.refl s).refuse _ _
    · exact (Keeps.refl s).refuse _ _
    · exact ((Keeps.refl s).withGuard _).reply _ _ _
    · exact (Keeps.refl s).refuse _ _

theorem execFreezeGuard_keeps (s : State) : (execFreezeGuard s).all (Keeps s) :=
  serve_keeps fun _ => (Keeps.refl s).emptyBody _ _ (by
    split
    · exact (Keeps.refl s).refuse _ _
    · exact ((Keeps.refl s).withGuard _).reply _ _ _)

theorem execOwnerReset_keeps (rcv : Bool) (s : State) : (execOwnerReset rcv s).all (Keeps s) :=
  serveWork_keeps fun _ => ((Keeps.refl s).withRcv rcv).emptyBody _ _ (by
    split
    · exact (((Keeps.refl s).withRcv rcv).setWork _ _).fileOta _
    · exact ((Keeps.refl s).withRcv rcv).refuse _ _)

/-- An abort drops the running work of the image checker. -/
theorem Keeps.dropF {s t : State} (h : Keeps s t) : Keeps s t.dropF := by
  refine h.alike ⟨rfl, rfl, rfl, id, rfl, id, fun _ => rfl, rfl, rfl, extending_of fun r hrun hd => ?_⟩
  obtain ⟨r', hr', rfl⟩ := Option.map_eq_some_iff.1 (hrun : t.engine.running.map _ = some r)
  exact ⟨r', hr', (Bool.or_eq_false_iff.1 hd).1, fun _ _ _ _ _ _ => rfl⟩

theorem Keeps.abortAdmission {s t : State} (h : Keeps s t) : Keeps s t.abortAdmission := by
  unfold State.abortAdmission
  dsimp only
  split <;> simp (maxDischargeDepth := 9) [h.dropF]

theorem execAbortAdmission_keeps (s : State) : (execAbortAdmission s).all (Keeps s) :=
  serveWork_keeps fun _ => (Keeps.refl s).emptyBody _ _ (by
    split <;> simp [Keeps.abortAdmission])

theorem execConfirmBoot_keeps (s : State) : (execConfirmBoot s).all (Keeps s) :=
  serveWork_keeps fun _ => (Keeps.refl s).emptyBody _ _ (by
    repeat' split
    all_goals simp)

/-! ### Events outside the arrays -/

theorem execUptimeTick_keeps (s : State) : (execUptimeTick s).all (Keeps s) := by
  unfold execUptimeTick
  split
  · refine Result.all_of_next ?_
    dsimp only
    have hended : Keeps s (if s.owner.idleDue && s.grantIdle then s.endGrant else s) := by
      split
      · exact (Keeps.refl s).endGrant
      · exact .refl s
    exact (hended.withOwner _ id).withOwner _ id
  · exact Result.all_of_next (.refl s)

theorem execOwnerGrantIdleExpiry_keeps (s : State) : (execOwnerGrantIdleExpiry s).all (Keeps s) := by
  unfold execOwnerGrantIdleExpiry
  split
  · split
    · exact Result.all_of_next (Keeps.refl s).endGrant
    · exact Result.all_of_next ((Keeps.refl s).withOwner _ id)
  · exact Result.all_of_next (.refl s)

theorem readEnd_keeps {s : State} {r : FlashBusy} {f : State → State} (hf : ∀ t, Keeps s t → Keeps s (f t)) :
    (s.readEnd r f).all (Keeps s) := by
  have hread := (Keeps.refl s).mapChecker fun c => { c with flash := none }
  refine Result.all_of_next ?_
  split
  · refine Keeps.settle ?_
    unfold State.droppedRead
    split
    · exact hread.finishAbort _
    · exact hread
  · exact (hf _ hread).settle

theorem execFlashIdReadDone_keeps (b0 b1 b2 : Byte) (s : State) : (execFlashIdReadDone b0 b1 b2 s).all (Keeps s) := by
  unfold execFlashIdReadDone
  split
  · split
    · refine readEnd_keeps fun t h => ?_
      unfold State.identified
      repeat' split
      all_goals simp [h]
    · exact Result.all_of_next (.refl s)
  · exact Result.all_of_next (.refl s)

theorem execManifestReadDone_keeps (bytes : Bytes) (s : State) : (execManifestReadDone bytes s).all (Keeps s) := by
  unfold execManifestReadDone
  split
  · split
    · refine readEnd_keeps fun t h => ?_
      unfold State.manifestRead
      dsimp only
      split <;> simp [h]
    · exact Result.all_of_next (.refl s)
  · exact Result.all_of_next (.refl s)

theorem execChunkReadDone_keeps (bytes : Bytes) (s : State) : (execChunkReadDone bytes s).all (Keeps s) := by
  unfold execChunkReadDone
  split
  · split
    · exact readEnd_keeps fun t h => (h.mapChecker _).fileClaim _ _
    all_goals exact Result.all_of_next (.refl s)
  · exact Result.all_of_next (.refl s)

theorem execBootPhaseBegin_keeps (s : State) : (execBootPhaseBegin s).all (Keeps s) := by
  unfold execBootPhaseBegin
  split
  · refine Result.all_of_next (Keeps.settle ?_)
    unfold State.beginPhase
    dsimp only
    split <;> simp
  · exact Result.all_of_next (.refl s)

/-! ### The ends of the arrays' operations -/

theorem execPageProgramDone_keeps (bad : Option Bytes) (s : State) : (execPageProgramDone bad s).all (Keeps s) := by
  unfold execPageProgramDone
  split
  · exact Result.all_of_next ((Keeps.refl s).programDone _ _ _).settle
  · exact Result.all_of_next (.refl s)

theorem execPageVoidDone_keeps (bad : Option Word) (s : State) : (execPageVoidDone bad s).all (Keeps s) := by
  unfold execPageVoidDone
  split
  · exact Result.all_of_next ((Keeps.refl s).voidDone _ _).settle
  · exact Result.all_of_next ((Keeps.refl s).copyVoidDone _ _).settle
  · exact Result.all_of_next (.refl s)

theorem execCopyProgramDone_keeps (bad : Option Bytes) (s : State) : (execCopyProgramDone bad s).all (Keeps s) := by
  unfold execCopyProgramDone
  split
  · exact Result.all_of_next ((Keeps.refl s).copyDone _ _ _ _).settle
  · exact Result.all_of_next (.refl s)

theorem execBlockEraseDone_keeps (left : List (Nat × Byte)) (s : State) : (execBlockEraseDone left s).all (Keeps s) := by
  unfold execBlockEraseDone
  split
  · exact Result.all_of_next ((Keeps.refl s).eraseDone _ _).settle
  · exact Result.all_of_next (.refl s)

theorem execRecoveryEraseDone_keeps (left : List (Nat × Byte)) (s : State) : (execRecoveryEraseDone left s).all (Keeps s) := by
  unfold execRecoveryEraseDone
  split
  · exact Result.all_of_next ((Keeps.refl s).eraseDone _ _).settle
  · exact Result.all_of_next (.refl s)

theorem execOtaByteProgrammed_keeps (stuck : Byte) (s : State) : (execOtaByteProgrammed stuck s).all (Keeps s) := by
  unfold execOtaByteProgrammed
  split
  · exact Result.all_of_next ((Keeps.refl s).byteProgrammed _ _ _).settle
  · exact Result.all_of_next ((Keeps.refl s).byteProgrammed _ _ _).settle
  · exact Result.all_of_next ((Keeps.refl s).byteProgrammed _ _ _).settle
  · exact Result.all_of_next (.refl s)

theorem execCounterBitProgrammed_keeps (ok : Bool) (s : State) : (execCounterBitProgrammed ok s).all (Keeps s) := by
  unfold execCounterBitProgrammed
  split
  · exact Result.all_of_next ((Keeps.refl s).counterProgrammed _ _ _ _ _).settle
  · exact Result.all_of_next (.refl s)

theorem execLockBitProgrammed_keeps (ok : Bool) (s : State) : (execLockBitProgrammed ok s).all (Keeps s) := by
  unfold execLockBitProgrammed
  split
  · exact Result.all_of_next ((Keeps.refl s).lockProgrammed _ _).settle
  · exact Result.all_of_next (.refl s)

theorem execRetireBitProgrammed_keeps (ok : Bool) (s : State) : (execRetireBitProgrammed ok s).all (Keeps s) := by
  unfold execRetireBitProgrammed
  split
  · exact Result.all_of_next ((Keeps.refl s).retireProgrammed _ _).settle
  · exact Result.all_of_next (.refl s)

/-! ### The ends of the engine's jobs -/

/-- The end of a job that extends no lane: what its result's block keeps. -/
theorem jobEnd_keeps {s : State} {r : Running} {f : State → State} (hf : ∀ t, Keeps s t → Keeps s (f t)) :
    (s.jobEnd r f).all (Keeps s) := Keeps.jobEnd fun _ => hf _ (Keeps.refl s).endRun

theorem execHashChunkEnd_keeps (s : State) : (execHashChunkEnd s).all (Keeps s) := by
  unfold execHashChunkEnd
  repeat' split
  · exact jobEnd_keeps fun _ h => h.chunkHashed _ _
  all_goals exact Result.all_of_next (.refl s)

theorem execFinishDigestEnd_keeps (s : State) : (execFinishDigestEnd s).all (Keeps s) := by
  unfold execFinishDigestEnd
  repeat' split
  · exact jobEnd_keeps fun _ h => h.digestEnded _ _ _
  all_goals exact Result.all_of_next (.refl s)

theorem execExtendJobEnd_keeps (s : State) : (execExtendJobEnd s).all (Keeps s) := by
  unfold execExtendJobEnd
  split
  · rename_i r hrun
    split
    · rename_i hjob
      exact Keeps.jobEnd fun hd => Keeps.extendEnded _ hrun hd hjob
    · exact Result.all_of_next (.refl s)
  · exact Result.all_of_next (.refl s)

theorem execVerifySignatureEnd_keeps (s : State) : (execVerifySignatureEnd s).all (Keeps s) := by
  unfold execVerifySignatureEnd
  repeat' split
  · exact jobEnd_keeps fun _ h => h.signatureChecked _
  all_goals exact Result.all_of_next (.refl s)

theorem execSignJobEnd_keeps (s : State) : (execSignJobEnd s).all (Keeps s) := by
  unfold execSignJobEnd
  repeat' split
  · exact jobEnd_keeps fun _ h => h.signEnded _ _
  all_goals exact Result.all_of_next (.refl s)

theorem execDeriveJobEnd_keeps (s : State) : (execDeriveJobEnd s).all (Keeps s) := by
  unfold execDeriveJobEnd
  repeat' split
  · exact jobEnd_keeps fun _ h => h.reply _ _ _
  all_goals exact Result.all_of_next (.refl s)

theorem execStretchEnd_keeps (s : State) : (execStretchEnd s).all (Keeps s) := by
  unfold execStretchEnd
  repeat' split
  · exact jobEnd_keeps fun _ h => h.stretchEnded _
  all_goals exact Result.all_of_next (.refl s)

theorem execRandomEnd_keeps (healthy : Bool) (drawn : Bytes) (s : State) : (execRandomEnd healthy drawn s).all (Keeps s) := by
  unfold execRandomEnd
  repeat' split
  · exact jobEnd_keeps fun _ h => h.randomEnded _ _
  all_goals exact Result.all_of_next (.refl s)

theorem execKeygenEnd_keeps (healthy : Bool) (draws : List Bytes) (s : State) : (execKeygenEnd healthy draws s).all (Keeps s) := by
  unfold execKeygenEnd
  repeat' split
  · exact jobEnd_keeps fun _ h => h.attestGenerated _
  · exact jobEnd_keeps fun _ h => h.keyGenerated _ _ _
  · exact jobEnd_keeps fun _ h => h.keygenFault _
  · exact jobEnd_keeps fun _ h => h.seedGenerated _
  · exact jobEnd_keeps fun _ h => h.keygenFault _
  · exact Result.all_of_next (.refl s)
  · exact jobEnd_keeps fun _ h => h.keyGenerated _ _ _
  · exact jobEnd_keeps fun _ h => h.keygenFault _
  all_goals exact Result.all_of_next (.refl s)

end Sys2Proof.Machine
/-! The resets, the load, the release and the restart; and the three invariants of every step (O58 to O60). -/
namespace Sys2Proof.Machine

/-! ### Resets and the load -/

theorem reset_sound : State.reset.ctx.sound = true := by decide

/-- After a reset the invariants hold as they do after power-on. -/
theorem resetAll_keeps (s : State) (p : Power) (g : Guard) (cut : Cut) : Keeps s (s.resetAll p g cut) where
  table _ := reset_sound
  keys _ := by
    refine ⟨fun e c he hc => ?_, fun _ => rfl, fun _ => ⟨rfl, rfl⟩⟩
    exact absurd ((reset_entry he).2.symm.trans hc) (by simp)
  lanes _ := reset_lanesReplay

theorem execPowerOn_keeps (cut : Cut) (s : State) : (execPowerOn cut s).all (Keeps s) :=
  Result.all_of_next (resetAll_keeps _ _ _ _)

theorem execPinReset_keeps (cut : Cut) (s : State) : (execPinReset cut s).all (Keeps s) := by
  unfold execPinReset
  split
  · exact Result.all_of_next (.refl s)
  · exact Result.all_of_next (resetAll_keeps _ _ _ _)

theorem execPowerLoss_keeps (cut : Cut) (s : State) : (execPowerLoss cut s).all (Keeps s) := by
  unfold execPowerLoss
  split
  · exact Result.all_of_next (.refl s)
  · exact Result.all_of_next (resetAll_keeps _ _ _ _)

theorem execPinResetRelease_keeps (s : State) : (execPinResetRelease s).all (Keeps s) := by
  unfold execPinResetRelease
  split
  · rename_i hpower
    refine Result.all_of_next ⟨id, ?_, id⟩
    rintro ⟨hvalid, hshut, hdark⟩
    exact ⟨hvalid, hshut, fun _ => hdark (by rw [hpower]; decide)⟩
  · exact Result.all_of_next (.refl s)

/-- With no grant set on either channel no key is LOADED. -/
theorem unloaded_of_dark {s : State} (hvalid : s.keysValid) (hA : s.chA.grants = 0#6) (hS : s.chS.grants = 0#6) {e : CtxEntry}
    {c : Ctx} (he : e ∈ s.ctx.entries) : e.ctx ≠ some c := by
  intro hc
  obtain ⟨-, hgranted, -⟩ := hvalid e c he hc
  cases hdom : c.domain with
  | none =>
    rw [hdom] at hgranted
    cases hgranted
  | some d =>
    have hbit : (s.chan c.owner).grants.getLsbD d.bit = true := by
      rw [hdom] at hgranted
      exact hgranted
    have hzero : (s.chan c.owner).grants = 0#6 := by
      cases c.owner with
      | S => exact hS
      | A => exact hA
    rw [hzero] at hbit
    simp at hbit

theorem loaded_keeps {s : State} (hpower : s.power = .loading) : Keeps s s.loaded where
  table := id
  keys := by
    rintro ⟨hvalid, hshut, hdark⟩
    obtain ⟨hA, hS⟩ := hdark (by rw [hpower]; decide)
    exact ⟨fun e c he hc => absurd hc (unloaded_of_dark hvalid hA hS he), hshut, fun h => absurd rfl h⟩
  lanes := id

theorem execStartUpLoad_keeps (s : State) : (execStartUpLoad s).all (Keeps s) := by
  unfold execStartUpLoad
  split
  · exact Result.all_of_next (loaded_keeps ‹_›).settle
  · exact Result.all_of_next (.refl s)

/-! ### The release -/

/-- Channel A opens from CLOSED, where it had no grant set and so no entry was LOADED for it. -/
theorem openA_keeps {s t : State} (h : Keeps s t) (hclosed : t.chA.state = .closed) (hpower : t.power = .running) :
    Keeps s t.openA := by
  refine h.trans ⟨id, ?_, id⟩
  rintro ⟨hvalid, hshut, -⟩
  refine ⟨fun e c he hc => ?_, fun hc => (by cases hc), fun hp => absurd hpower hp⟩
  obtain ⟨hgen, hgranted, howner⟩ := hvalid e c he hc
  refine ⟨hgen, ?_, howner⟩
  cases hown : c.owner with
  | S =>
    rw [hown] at hgranted
    exact hgranted
  | A =>
    cases hdom : c.domain with
    | none =>
      rw [hdom] at hgranted
      cases hgranted
    | some d =>
      have hbit : t.chA.grants.getLsbD d.bit = true := by
        rw [hown, hdom] at hgranted
        exact hgranted
      rw [hshut hclosed] at hbit
      simp at hbit

theorem finishRelease_keeps {s t : State} (h : Keeps s t) (hclosed : t.chA.state = .closed) (hpower : t.power = .running)
    (m : BootMode) (b : Option Bank) : Keeps s (t.finishRelease m b) := by
  have hopen := openA_keeps (h.withBootOpen false) hclosed hpower
  have hfree : Keeps s { ({ t with meas := { t.meas with bootOpen := false } } : State).openA with hold := false } :=
    hopen.alike ⟨rfl, rfl, rfl, id, rfl, id, fun _ => rfl, rfl, rfl, fun _ _ => id⟩
  have hraised := (hfree.mapBoot fun bt => { bt with stage := .released, state := .released, mode := m, booted := b }).raise
    .S .bootDone
  unfold State.finishRelease State.recoveryReply
  dsimp only
  split
  · exact hraised.reply _ _ _
  · exact hraised

theorem beforeOpening_iff {s : State} : s.beforeOpening = true ↔ s.power = .running ∧ s.chA.state = .closed := by
  simp [State.beforeOpening]

theorem execRelease_keeps (s : State) : (execRelease s).all (Keeps s) := by
  unfold execRelease
  split
  · split
    · exact Result.all_of_next (.refl s)
    · rename_i hgo
      simp only [Bool.or_eq_true, not_or, Bool.not_eq_true', Bool.not_eq_false] at hgo
      obtain ⟨hbefore, -⟩ := hgo
      obtain ⟨hpower, hclosed⟩ := beforeOpening_iff.1 hbefore
      dsimp only
      split
      · exact Result.all_of_next (by simp)
      · exact Result.all_of_next (finishRelease_keeps ((Keeps.refl s).mapChecker _) hclosed hpower _ _).settle
  · exact Result.all_of_next (.refl s)

theorem execBootLanesClose_keeps (s : State) : (execBootLanesClose s).all (Keeps s) := by
  unfold execBootLanesClose
  split
  · split
    · exact Result.all_of_next (.refl s)
    · rename_i hgo
      simp only [Bool.or_eq_true, not_or, Bool.not_eq_true', Bool.not_eq_false] at hgo
      obtain ⟨⟨hbefore, -⟩, -⟩ := hgo
      obtain ⟨hpower, hclosed⟩ := beforeOpening_iff.1 hbefore
      exact Result.all_of_next (finishRelease_keeps (.refl s) hclosed hpower _ _).settle
  · exact Result.all_of_next (.refl s)

/-! ### The platform restart -/

theorem restart_sound {s : State} (h : s.ctx.sound = true) : s.restart.ctx.sound = true := by
  obtain ⟨table, htable⟩ := s.undoAttempt_table
  rw [restart_of_table s table htable]
  exact sound_invalidate _ h

theorem restart_keys {s : State} (h : s.keysSound) : s.restart.keysSound := by
  obtain ⟨table, htable⟩ := s.undoAttempt_table
  obtain ⟨hvalid, -, hdark⟩ := h
  rw [restart_of_table s table htable]
  refine ⟨keysValid_invalidate _ rfl fun e c he hc hkept => ?_, fun _ => rfl, fun hp => ⟨rfl, (hdark hp).2⟩⟩
  obtain ⟨hgen, hgranted, howner⟩ := hvalid e c he hc
  obtain ⟨hown, hrest⟩ := Bool.or_eq_false_iff.1 hkept
  obtain ⟨hneeds, -⟩ := Bool.or_eq_false_iff.1 hrest
  refine ⟨hgen, ?_, fun hn => ?_⟩
  · cases hch : c.owner with
    | S =>
      rw [hch] at hgranted
      exact hgranted
    | A =>
      rw [hch] at hown
      cases hown
  · rw [howner hn, hn] at hneeds
    cases hneeds

/-- A job that runs on after a restart with effect extends no lane, when none of a boot phase ran before it (R151). -/
theorem restarted_extending {e : Engine}
    (h : ∀ r lane v d l src, e.running = some r → r.job = .extend lane v d l src → r.dropped = true ∨ r.who = .A)
    {r : Running} {lane : Nat} {v d l : Bytes} {src : Source} (hrun : e.restarted.running = some r) (hd : r.dropped = false) :
    r.job ≠ .extend lane v d l src := by
  intro hjob
  obtain ⟨r', hr', rfl⟩ := Option.map_eq_some_iff.1 (hrun : e.restart.running.map _ = some r)
  obtain ⟨r'', hr'', rfl⟩ := Option.map_eq_some_iff.1 (hr' : e.running.map _ = some r')
  obtain ⟨hd', -⟩ := Bool.or_eq_false_iff.1 hd
  obtain ⟨hdropped, hwho⟩ := Bool.or_eq_false_iff.1 hd'
  have hsame : r''.job = .extend lane v d l src := by
    dsimp only at hjob
    split at hjob
    · cases hjob
    · exact hjob
  rcases h r'' lane v d l src hr'' hsame with e | e
  · rw [hdropped] at e
    cases e
  · rw [e] at hwho
    cases hwho

theorem restart_lanes {s : State}
    (h : ∀ r lane v d l src, s.engine.running = some r → r.job = .extend lane v d l src → r.dropped = true ∨ r.who = .A) :
    s.restart.lanesReplay := by
  obtain ⟨table, htable⟩ := s.undoAttempt_table
  rw [restart_of_table s table htable]
  obtain ⟨hlen, hzero, -⟩ := reset_lanesReplay
  refine ⟨hlen, hzero, fun r lane v d l src hrun hd hjob => ?_⟩
  exact absurd hjob (restarted_extending h hrun hd)

/-- RESTART PLATFORM leaves what a reply or settling keeps from the state, or from the state restarted. -/
theorem execRestartPlatform_all {P : State → Prop} (ch : Chan) (s : State) (hstay : ∀ t, Keeps s t → P t)
    (hrestart : ∀ t, Keeps s.restart t → P t) : (execRestartPlatform ch s).all P :=
  serve_all s _ _ _ (hstay s (.refl s)) fun body _ => by
    cases body with
    | cons b rest => exact hstay _ ((Keeps.refl s).refuse _ _).settle
    | nil =>
      unfold State.emptyBody
      dsimp only
      split
      · exact hstay _ ((Keeps.refl s).refuse _ _).settle
      · cases ch with
        | S => exact hrestart _ ((Keeps.refl _).reply _ _ _).settle
        | A => exact hrestart _ (Keeps.refl _).settle

/-! ### Every command -/

theorem execSeal_keeps (s : State) : (execSeal s).all (Keeps s) :=
  serveWork_keeps fun _ => (Keeps.refl s).emptyBody _ _ (by split <;> simp)

/-- Every command but RESTART PLATFORM keeps the invariants, each for itself: one case for each row of the table. -/
theorem exec_keeps (c : Instr) (s : State) (hc : ∀ ch, c ≠ .restartPlatform ch) : Result.all (exec c s) (Keeps s) := by
  cases c with
  | restartPlatform ch => exact absurd rfl (hc ch)
  | powerOn cut => exact execPowerOn_keeps cut s
  | pinReset cut => exact execPinReset_keeps cut s
  | powerLoss cut => exact execPowerLoss_keeps cut s
  | pinResetRelease => exact execPinResetRelease_keeps s
  | startUpLoad => exact execStartUpLoad_keeps s
  | release => exact execRelease_keeps s
  | bootLanesClose => exact execBootLanesClose_keeps s
  | uptimeTick => exact execUptimeTick_keeps s
  | restrictGrants => exact execRestrictGrants_keeps s
  | setGuard => exact execSetGuard_keeps s
  | freezeGuard => exact execFreezeGuard_keeps s
  | ownerReset rcv => exact execOwnerReset_keeps rcv s
  | extendJobEnd => exact execExtendJobEnd_keeps s
  | addressByte b => exact execAddressByte_keeps b s
  | writeDataByte b => exact execWriteDataByte_keeps b s
  | frameClose => exact execFrameClose_keeps s
  | readFrame n ends => exact execReadFrame_keeps n ends s
  | stuckLineTimerExpiry => exact execStuckLineTimerExpiry_keeps s
  | pageProgramDone bad => exact execPageProgramDone_keeps bad s
  | pageVoidDone bad => exact execPageVoidDone_keeps bad s
  | copyProgramDone bad => exact execCopyProgramDone_keeps bad s
  | blockEraseDone left => exact execBlockEraseDone_keeps left s
  | recoveryEraseDone left => exact execRecoveryEraseDone_keeps left s
  | otaByteProgrammed stuck => exact execOtaByteProgrammed_keeps stuck s
  | counterBitProgrammed ok => exact execCounterBitProgrammed_keeps ok s
  | lockBitProgrammed ok => exact execLockBitProgrammed_keeps ok s
  | retireBitProgrammed ok => exact execRetireBitProgrammed_keeps ok s
  | identify ch => exact serve_keeps fun _ => by simp
  | readEvents ch => exact serve_keeps fun _ => by simp
  | getSetting ch =>
    exact serve_keeps fun _ => by
      repeat' split
      all_goals simp
  | setSetting =>
    exact serveWork_keeps fun _ => by
      repeat' split
      all_goals simp
  | writeIdentity =>
    exact serveWork_keeps fun _ => by
      repeat' split
      all_goals simp
  | generateDeviceKeys =>
    exact serveWork_keeps fun _ => (Keeps.refl s).emptyBody _ _ (by
      repeat' split
      all_goals simp)
  | installRoot =>
    exact serveWork_keeps fun _ => by
      repeat' split
      all_goals simp
  | readStoreHealth ch =>
    exact serve_keeps fun _ => (Keeps.refl s).emptyBody _ _ (((Keeps.refl s).mapStore _ rfl).reply _ _ _)
  | writeSlot ch => exact execWriteSlot_keeps ch s
  | generateKey ch => exact execGenerateKey_keeps ch s
  | deleteSlot ch => exact execDeleteSlot_keeps ch s
  | readSlotInfo ch =>
    exact serve_keeps fun _ => by
      repeat' split
      all_goals simp
  | verifyOwner =>
    exact serveWork_keeps fun _ => by
      repeat' split
      all_goals simp
  | endOwner => exact serve_keeps fun _ => (Keeps.refl s).emptyBody _ _ ((Keeps.refl s).endGrant.reply _ _ _)
  | setVerifier =>
    exact serveWork_keeps fun _ => by
      repeat' split
      all_goals simp
  | readThrottle ch =>
    exact serve_keeps fun _ => by
      repeat' split
      all_goals simp
  | openKey ch => exact execOpenKey_keeps ch s
  | closeKey ch => exact execCloseKey_keeps ch s
  | pinKey ch => exact execPinKey_keeps ch s
  | unpinKey ch => exact execUnpinKey_keeps ch s
  | listContexts ch => exact serve_keeps fun _ => by simp
  | sign ch => exact serveWork_keeps fun _ => by split <;> simp
  | derive ch => exact serveWork_keeps fun _ => by split <;> simp
  | releaseSecret ch => exact serveWork_keeps fun _ => by split <;> simp
  | extend ch => exact serveWork_keeps fun _ => by split <;> simp
  | readLanes ch => exact serve_keeps fun _ => by simp
  | readLog ch => exact serve_keeps fun _ => by split <;> simp
  | quote ch =>
    exact serveWork_keeps fun _ => by
      repeat' split
      all_goals simp
  | readBootState ch => exact serve_keeps fun _ => by simp
  | releaseRecovery => exact serveWork_keeps fun _ => (Keeps.refl s).emptyBody _ _ (by split <;> simp)
  | selectBank =>
    exact serveWork_keeps fun _ => by
      repeat' split
      all_goals simp
  | admitBank =>
    exact serveWork_keeps fun _ => by
      repeat' split
      all_goals simp
  | admissionStatus ch => exact serve_keeps fun _ => by simp
  | abortAdmission => exact execAbortAdmission_keeps s
  | confirmBoot => exact execConfirmBoot_keeps s
  | hashChunkEnd => exact execHashChunkEnd_keeps s
  | finishDigestEnd => exact execFinishDigestEnd_keeps s
  | verifySignatureEnd => exact execVerifySignatureEnd_keeps s
  | signJobEnd => exact execSignJobEnd_keeps s
  | deriveJobEnd => exact execDeriveJobEnd_keeps s
  | stretchEnd => exact execStretchEnd_keeps s
  | keygenEnd healthy draws => exact execKeygenEnd_keeps healthy draws s
  | randomEnd healthy drawn => exact execRandomEnd_keeps healthy drawn s
  | ownerGrantIdleExpiry => exact execOwnerGrantIdleExpiry_keeps s
  | flashIdReadDone b0 b1 b2 => exact execFlashIdReadDone_keeps b0 b1 b2 s
  | manifestReadDone bytes => exact execManifestReadDone_keeps bytes s
  | chunkReadDone bytes => exact execChunkReadDone_keeps bytes s
  | bootPhaseBegin => exact execBootPhaseBegin_keeps s
  -- The one that is left is SEAL, the name of whose constructor is a keyword.
  | _ => exact execSeal_keeps s

/-- What holds of each state that keeps the invariants from the one before, or from it restarted, holds after a command. -/
theorem exec_all {P : State → Prop} {c : Instr} {s t : State} (hexec : exec c s = .next t) (hstay : ∀ u, Keeps s u → P u)
    (hrestart : ∀ ch u, c = .restartPlatform ch → Keeps s.restart u → P u) : P t := by
  by_cases hc : ∃ ch, c = .restartPlatform ch
  · obtain ⟨ch, rfl⟩ := hc
    exact Result.all_next (execRestartPlatform_all ch s hstay fun u => hrestart ch u rfl) hexec
  · exact hstay t (Result.all_next (exec_keeps c s (not_exists.1 hc)) hexec)

theorem exec_sound {c : Instr} {s t : State} (hexec : exec c s = .next t) (h : s.ctx.sound = true) : t.ctx.sound = true :=
  exec_all (P := fun u => u.ctx.sound = true) hexec (fun _ hu => hu.table h) fun _ _ _ hu => hu.table (restart_sound h)

theorem exec_keysSound {c : Instr} {s t : State} (hexec : exec c s = .next t) (h : s.keysSound) : t.keysSound :=
  exec_all (P := State.keysSound) hexec (fun _ hu => hu.keys h) fun _ _ _ hu => hu.keys (restart_keys h)

/-- Settles O58: idling changes nothing, and every command keeps the table's form. -/
theorem contextTableKeepsItsForm : Obligations.ContextTableKeepsItsForm := by
  intro s t hstep hsound
  obtain rfl | ⟨c, rest, -, hexec⟩ := step_cases hstep
  · exact hsound
  · exact exec_sound (s := s.withPending rest) hexec hsound

/-- A key LOADED in a sound state is valid, on an open channel of a part that runs. -/
theorem loaded_in_running {s : State} {e : CtxEntry} {c : Ctx} (hs : s.keysSound) (he : e ∈ s.ctx.entries) (hc : e.ctx = some c) :
    s.power = .running ∧ (s.chA.state = .closed → c.owner = .S) ∧ c.gen = s.store.gen c.slot ∧
      s.granted c.owner c.domain = true ∧ (c.needsOwner = true → s.owner.grant.isSome = true) := by
  obtain ⟨hvalid, hshut, hdark⟩ := hs
  obtain ⟨hgen, hgranted, howner⟩ := hvalid e c he hc
  refine ⟨?_, fun hclosed => ?_, hgen, hgranted, howner⟩
  · refine Classical.byContradiction fun hp => ?_
    obtain ⟨hA, hS⟩ := hdark hp
    exact unloaded_of_dark hvalid hA hS he hc
  · cases hown : c.owner with
    | S => rfl
    | A =>
      cases hdom : c.domain with
      | none =>
        rw [hdom] at hgranted
        cases hgranted
      | some d =>
        have hbit : s.chA.grants.getLsbD d.bit = true := by
          rw [hown, hdom] at hgranted
          exact hgranted
        rw [hshut hclosed] at hbit
        simp at hbit

/-- Settles O59: every command, and so every step, keeps the keys sound; in a sound state a LOADED key is valid. -/
theorem loadedKeysStayValid : Obligations.LoadedKeysStayValid := by
  refine ⟨fun s t hstep hs => ?_, fun c s t hexec hs => exec_keysSound hexec hs, fun s e c hs => loaded_in_running hs⟩
  obtain rfl | ⟨c, rest, -, hexec⟩ := step_cases hstep
  · exact hs
  · exact exec_keysSound (s := s.withPending rest) hexec hs

/-- Settles O60: every command keeps the replay of the log; a restart begins it again, with no EXTEND job left that counts. -/
theorem lanesReplayTheLog : Obligations.LanesReplayTheLog := by
  intro c s t hexec hrunning hs
  refine exec_all (P := State.lanesReplay) hexec (fun _ hu => hu.lanes hs) fun ch u hc hu => hu.lanes (restart_lanes ?_)
  exact fun r lane v d l src => hrunning ch r lane v d l src hc

end Sys2Proof.Machine
